-- ==== Sys2Proof/Word.lean ====
section
/-!
DEFINITION. The words of the machine (00_scope R4, R6, R7): every value is unsigned, data are 8 bits,
addresses, opcodes and operands are 4 bits.
-/

namespace Sys2Proof

/-- A data word: A, B, IR, OUT and a memory cell (R4: data width 8). -/
abbrev Byte := BitVec 8

/-- Half of an instruction word: an opcode or an operand (R4: 4 bits each). -/
abbrev Nibble := BitVec 4

/-- The address of a memory cell: PC, MAR and a memory operand (R4: address width 4). -/
abbrev Addr := BitVec 4

end Sys2Proof
end

