-- ==== Sys2Proof/Config.lean ====
section
/-!
DEFINITION. The fixed sizes of the machine (00_scope R4). The hardware leaves no parameter to an
implementation and no value open, so there is no free value here.
-/

namespace Sys2Proof

/-- Number of memory cells (R4, R31: "Memory is exactly 16 cells"). -/
abbrev Config.memoryCells : Nat := 16

end Sys2Proof
end

