-- ==== Sys2Proof/Syntax.lean ====
section
/-!
DEFINITION. The instructions (30_encoding R70 to R75): one constructor per row of
spec/opcode_table.json. Operands are 4 bits wide by typing, as 10_state R34 asks.
-/

namespace Sys2Proof

/-- One instruction, as the decoder reads it (R74). The operand of format N (OUT, HLT and the
undefined opcodes) is kept: decoding loses no bit of the word (R72), and the machine ignores it
(R73; DEDUCED: log entry 5). -/
inductive Instr where
  /-- LDA addr: load the accumulator from memory (R110). -/
  | lda (addr : Nibble)
  /-- ADD addr: add a memory cell to the accumulator (R120). -/
  | add (addr : Nibble)
  /-- SUB addr: subtract a memory cell from the accumulator (R121). -/
  | sub (addr : Nibble)
  /-- STA addr: store the accumulator to memory (R111). -/
  | sta (addr : Nibble)
  /-- LDI val: load the accumulator with an immediate (R112). -/
  | ldi (val : Nibble)
  /-- JMP addr: jump (R130). -/
  | jmp (addr : Nibble)
  /-- JZ addr: jump if the zero flag is true (R131). -/
  | jz (addr : Nibble)
  /-- JC addr: jump if the carry flag is true (R132). -/
  | jc (addr : Nibble)
  /-- OUT: copy the accumulator to the output register (R140). -/
  | out (ignored : Nibble)
  /-- HLT: halt (R141). -/
  | hlt (ignored : Nibble)
  /-- Undefined opcode 0xA, a defined no-operation (R142). -/
  | rsvdA (ignored : Nibble)
  /-- Undefined opcode 0xB, a defined no-operation (R142). -/
  | rsvdB (ignored : Nibble)
  /-- Undefined opcode 0xC, a defined no-operation (R142). -/
  | rsvdC (ignored : Nibble)
  /-- Undefined opcode 0xD, a defined no-operation (R142). -/
  | rsvdD (ignored : Nibble)
  /-- Undefined opcode 0xE, a defined no-operation (R142). -/
  | rsvdE (ignored : Nibble)
  /-- Undefined opcode 0xF, a defined no-operation (R142). -/
  | rsvdF (ignored : Nibble)
  deriving DecidableEq, Repr

/-- The four uses of the one instruction format (R71): what the operand nibble means. -/
inductive Format where
  /-- The operand is the address of a memory cell. -/
  | m
  /-- The operand is an immediate value. -/
  | i
  /-- The operand is a jump target. -/
  | j
  /-- The operand is ignored. -/
  | n
  deriving DecidableEq, Repr

/-- A program image (R80): byte `i` goes to cell `i`. -/
abbrev Image := List Byte

end Sys2Proof
end

