-- ==== Sys2Proof/WellFormed.lean ====
section
/-!
DEFINITION. What is well formed. Every term of `Instr` is an instruction the hardware executes: its
operand is 4 bits by typing (10_state R34) and every word decodes (30_encoding R72, R75), so no
statement needs a well-formedness premise. The checks here say which terms are also CANONICAL, what
an assembler emits (R76), and which images fit the memory (R80).
-/

namespace Sys2Proof

/-- The use of the format an instruction belongs to (R71). -/
def formatOf : Instr → Format
  | .lda _ | .add _ | .sub _ | .sta _ => .m
  | .ldi _ => .i
  | .jmp _ | .jz _ | .jc _ => .j
  | .out _ | .hlt _ | .rsvdA _ | .rsvdB _ | .rsvdC _ | .rsvdD _ | .rsvdE _ | .rsvdF _ => .n

/-- The operand nibble of an instruction (R71). -/
def operandOf : Instr → Nibble
  | .lda n | .add n | .sub n | .sta n | .ldi n | .jmp n | .jz n | .jc n | .out n | .hlt n
  | .rsvdA n | .rsvdB n | .rsvdC n | .rsvdD n | .rsvdE n | .rsvdF n => n

/-- The canonical encodings (R76; DEDUCED: decision D8, log entry 5): an instruction that ignores its operand carries
operand 0. A non-canonical instruction still executes, exactly as its canonical one. -/
def canonical (i : Instr) : Bool :=
  match formatOf i with
  | .m | .i | .j => true
  | .n => operandOf i == 0

/-- An image that fits the memory: at most 16 bytes (R80). LoadProgram accepts longer ones too and
truncates them (70 R172, 90 C8). -/
def imageFits (bytes : Image) : Bool := bytes.length ≤ Config.memoryCells

end Sys2Proof
end

