-- ==== Sys2Proof/Decode.lean ====
section
/-!
DEFINITION. The decoder and the encoder (30_encoding R70 to R77). The decoder is total: every byte
decodes (R72), so there is nothing for it to reject (R75: "There is no illegal encoding").
-/

namespace Sys2Proof

/-- Bits 7:4 of a word, its opcode (R71, R72: `w >> 4`). -/
def highNibble (w : Byte) : Nibble := w.extractLsb' 4 4

/-- Bits 3:0 of a word, its operand (R71, R72: `w & 0xF`). -/
def lowNibble (w : Byte) : Nibble := w.extractLsb' 0 4

/-- The decoder of R72: the pair of an opcode and an operand. -/
def fields (w : Byte) : Nibble × Nibble := (highNibble w, lowNibble w)

/-- The opcode map of R74. The last arm is opcode 0xF alone: the other fifteen are listed. -/
def instrOfFields (opcode operand : Nibble) : Instr :=
  match opcode with
  | 0x0#4 => .lda operand
  | 0x1#4 => .add operand
  | 0x2#4 => .sub operand
  | 0x3#4 => .sta operand
  | 0x4#4 => .ldi operand
  | 0x5#4 => .jmp operand
  | 0x6#4 => .jz operand
  | 0x7#4 => .jc operand
  | 0x8#4 => .out operand
  | 0x9#4 => .hlt operand
  | 0xA#4 => .rsvdA operand
  | 0xB#4 => .rsvdB operand
  | 0xC#4 => .rsvdC operand
  | 0xD#4 => .rsvdD operand
  | 0xE#4 => .rsvdE operand
  | _ => .rsvdF operand

/-- The instruction that a word is (R72, R74): total, pure, every one of the 256 words has one. -/
def decode (w : Byte) : Instr := instrOfFields (fields w).1 (fields w).2

/-- The opcode nibble of an instruction (the first column of R74's table). -/
def opcodeOf : Instr → Nibble
  | .lda _ => 0x0
  | .add _ => 0x1
  | .sub _ => 0x2
  | .sta _ => 0x3
  | .ldi _ => 0x4
  | .jmp _ => 0x5
  | .jz _ => 0x6
  | .jc _ => 0x7
  | .out _ => 0x8
  | .hlt _ => 0x9
  | .rsvdA _ => 0xA
  | .rsvdB _ => 0xB
  | .rsvdC _ => 0xC
  | .rsvdD _ => 0xD
  | .rsvdE _ => 0xE
  | .rsvdF _ => 0xF

/-- The word of an instruction: `opcode * 16 + operand` (R71, R80), the opcode in the more
significant position. -/
def encode (i : Instr) : Byte := opcodeOf i ++ operandOf i

/-- The byte that an opcode-table word stands for: bit 0 of `w` is the least significant bit, and
the bits above `nbits` are 0. -/
def tableByte (nbits w : Nat) : Byte := BitVec.ofNat 8 (w % 2 ^ nbits)

/-- The instruction the decoder reads from a word numbered as spec/opcode_table.json numbers it.
Every instruction is one 8-bit word (R70), so a row of another width is none of this machine's
(DESIGN CHOICE: log entry 18). -/
def decodeTableWord (nbits w : Nat) : Option Instr :=
  if nbits = 8 then some (decode (tableByte nbits w)) else none

end Sys2Proof
end

