-- ==== Sys2Proof/Machine/State.lean ====
section
/-!
DEFINITION. The state of the machine (10_state R20: "the entire machine state"; "A model's state
type is exactly this record"), its reset value (R35), and the reasons a step could stop: there are
none (60_exceptions R150, decision D15).
-/

namespace Sys2Proof.Machine

/-- The phase counter `clockCycle` (R30): exactly the six values 0 to 5 (DEDUCED: decision
D14, log entry 11). -/
inductive Phase where
  /-- Phase 0: `MAR <- PC` (R92). -/
  | addressSetup
  /-- Phase 1: `PC <- (PC + 1) mod 16` (R93). -/
  | pcIncrement
  /-- Phase 2: `IR <- MemRead(MAR, 1)` (R94). -/
  | fetch
  /-- Phase 3: the first execute phase (R95). -/
  | execute3
  /-- Phase 4: the second execute phase (R95). -/
  | execute4
  /-- Phase 5: the third execute phase (R95). -/
  | execute5
  deriving DecidableEq, Repr

/-- The memory array (R31) in canonical form: the cells that do not hold 0x00, addresses strictly
rising (log entry 7; `Memory.wf` in Ops.lean says so). -/
abbrev Memory := List Host.Cell

/-- The entire machine state (R20). -/
structure State where
  /-- A, the accumulator (R21). -/
  a : Byte
  /-- B, the scratch operand register (R22). -/
  b : Byte
  /-- PC, the program counter (R23). -/
  pc : Addr
  /-- MAR, the memory address register (R24). -/
  mar : Addr
  /-- IR, the instruction register (R25). -/
  ir : Byte
  /-- OUT, the output register (R26). -/
  out : Byte
  /-- Z, the zero flag (R27). -/
  z : Bool
  /-- C, the carry or borrow flag (R28). -/
  c : Bool
  /-- Halted, the halt flag (R29). -/
  halted : Bool
  /-- clockCycle, the phase counter (R30). -/
  clockCycle : Phase
  /-- The 16 memory cells (R31). -/
  memory : Memory
  deriving DecidableEq, Repr

/-- The reasons a step stops with a fault. The machine raises no exception and no fault of any kind
(60_exceptions R150), so nobody raises one and there is no constructor: safe, no behaviour is left
out (log entry 6). -/
inductive Fault where
  deriving DecidableEq, Repr

/-- The reasons an instruction is refused. -/
inductive Refusal where
  /-- An arm of `exec` whose instruction has no meaning yet. Every instruction has one, so nobody
  raises it: safe (log entry 6). -/
  | notModelled (mnemonic : String)
  deriving DecidableEq, Repr

/-- The machine right after PowerOn and Reset (R35; 70_reset_and_hazards R170, R171): every register
0, every flag false, phase 0, and every memory cell 0x00, so that none is listed (log entry 1). -/
def State.reset : State where
  a := 0x00
  b := 0x00
  pc := 0
  mar := 0
  ir := 0x00
  out := 0x00
  z := false
  c := false
  halted := false
  clockCycle := .addressSetup
  memory := []

end Sys2Proof.Machine
end

