-- ==== Sys2Proof/Machine/Ops.lean ====
section
/-!
DEFINITION. The named operations on registers and memory (20_memory R52, 40_controller_and_fetch).
The machine takes no exception and returns from none (60_exceptions R150, R154, R155), so there is no
operation for either: the spec describes no entry, no saved register and no vector.
-/

namespace Sys2Proof.Machine

/-! ### Register writes: one home for each element of the state -/

/-- `A <- v` (R21). -/
def State.setA (s : State) (v : Byte) : State := { s with a := v }

/-- `B <- v` (R22). -/
def State.setB (s : State) (v : Byte) : State := { s with b := v }

/-- `PC <- v` (R23). -/
def State.setPc (s : State) (v : Addr) : State := { s with pc := v }

/-- `MAR <- v` (R24). -/
def State.setMar (s : State) (v : Addr) : State := { s with mar := v }

/-- `IR <- v` (R25). -/
def State.setIr (s : State) (v : Byte) : State := { s with ir := v }

/-- `OUT <- v` (R26). -/
def State.setOut (s : State) (v : Byte) : State := { s with out := v }

/-- `Z <- v` (R27). -/
def State.setZ (s : State) (v : Bool) : State := { s with z := v }

/-- `C <- v` (R28). -/
def State.setC (s : State) (v : Bool) : State := { s with c := v }

/-- `Halted <- v` (R29). -/
def State.setHalted (s : State) (v : Bool) : State := { s with halted := v }

/-- `clockCycle <- v` (R30). -/
def State.setClock (s : State) (v : Phase) : State := { s with clockCycle := v }

/-- Replace the memory array (R31). -/
def State.setMemory (s : State) (v : Memory) : State := { s with memory := v }

/-! ### The memory array -/

/-- What a cell that is not listed holds: 0x00, as PowerOn leaves it (R35, R170; DEDUCED: log entry 1). -/
def unlistedByte : Byte := 0x00

/-- The byte at a cell: the first entry for it, else the unlisted byte. -/
def Memory.read : Memory → Nat → Byte
  | [], _ => unlistedByte
  | (b, v) :: rest, addr => if b = addr then v else Memory.read rest addr

/-- Take every entry for a cell out. -/
def Memory.erase : Memory → Nat → Memory
  | [], _ => []
  | (b, v) :: rest, addr =>
    if b = addr then Memory.erase rest addr else (b, v) :: Memory.erase rest addr

/-- Put an entry in before the first entry with a larger address. -/
def Memory.insert : Memory → Nat → Byte → Memory
  | [], addr, v => [(addr, v)]
  | (b, w) :: rest, addr, v =>
    if addr < b then (addr, v) :: (b, w) :: rest else (b, w) :: Memory.insert rest addr v

/-- Store a byte in a cell; storing the unlisted byte takes the entry out. -/
def Memory.write (m : Memory) (addr : Nat) (v : Byte) : Memory :=
  if v = unlistedByte then m.erase addr else (m.erase addr).insert addr v

/-- Entries at strictly rising addresses from `lo` on, all below 16, none holding the unlisted
byte. -/
def Memory.risingFrom : Nat → Memory → Bool
  | _, [] => true
  | lo, (b, v) :: rest =>
    decide (lo ≤ b) && decide (b < Config.memoryCells) && decide (v ≠ unlistedByte) &&
      Memory.risingFrom (b + 1) rest

/-- The canonical form of the memory (DESIGN CHOICE: log entry 7). -/
def Memory.wf (m : Memory) : Bool := Memory.risingFrom 0 m

/-- `MemRead(addr, 1)` (R52): `memory[addr mod 16]`. Total: an out-of-range address wraps and never
faults (U4). -/
def memRead (s : State) (addr : Nat) : Byte := s.memory.read (addr % Config.memoryCells)

/-- `MemWrite(addr, 1, v)` (R52): `memory[addr mod 16] <- v`, all other cells unchanged. -/
def memWrite (s : State) (addr : Nat) (v : Byte) : State :=
  s.setMemory (s.memory.write (addr % Config.memoryCells) v)

/-! ### The phase counter -/

/-- The number of a phase, 0 to 5 (R30). -/
def phaseNumber : Phase → Nat
  | .addressSetup => 0
  | .pcIncrement => 1
  | .fetch => 2
  | .execute3 => 3
  | .execute4 => 4
  | .execute5 => 5

/-- `(clockCycle + 1) mod 6` (R96). -/
def nextPhase : Phase → Phase
  | .addressSetup => .pcIncrement
  | .pcIncrement => .fetch
  | .fetch => .execute3
  | .execute3 => .execute4
  | .execute4 => .execute5
  | .execute5 => .addressSetup

/-- `clockCycle <- (clockCycle + 1) mod 6` (R96): the last thing a Step does. -/
def advanceClock (s : State) : State := s.setClock (nextPhase s.clockCycle)

/-! ### The phases of the fetch -/

/-- Phase 0 (R92): `MAR <- PC`. -/
def addressSetup (s : State) : State := s.setMar s.pc

/-- Phase 1 (R93): `PC <- (PC + 1) mod 16`. -/
def pcIncrement (s : State) : State :=
  s.setPc (BitVec.ofNat 4 ((s.pc.toNat + 1) % Config.memoryCells))

/-- Phase 2 (R94): `IR <- MemRead(MAR, 1)`. -/
def fetchWord (s : State) : State := s.setIr (memRead s s.mar.toNat)

/-! ### The cells of the dispatch table -/

/-- A dash of the dispatch table (R95, R100): nothing changes. -/
def idle (s : State) : State := s

/-- One row of the dispatch table (R95): the cell of the current execute phase. In a fetch phase
there is no cell and nothing happens; Step executes no row then (R90; DESIGN CHOICE: log entry 2). -/
def executeCells (ph3 ph4 ph5 : State → State) (s : State) :
    Host.Outcome State Fault Refusal :=
  match s.clockCycle with
  | .execute3 => .next (ph3 s)
  | .execute4 => .next (ph4 s)
  | .execute5 => .next (ph5 s)
  | .addressSetup | .pcIncrement | .fetch => .next (idle s)

end Sys2Proof.Machine
end

