-- ==== Sys2Proof/Machine/Flags.lean ====
section
/-!
DEFINITION. The flag computations and the arithmetic unit (42_arithmetic R120 to R124): results are
computed on exact integers and narrowed once, modulo 256 (00_scope R7).
-/

namespace Sys2Proof.Machine

/-- `A == 0`, all 8 bits (R123). -/
def isZero (v : Byte) : Bool := v == 0x00

/-- UpdateZ: `Z <- (A == 0)` with the A just written (R123, R99 point 3). -/
def updateZ (s : State) : State := s.setZ (isZero s.a)

/-- Write A and then Z: every instruction that writes A also writes Z in the same phase (R21). -/
def writeA (v : Byte) (s : State) : State := updateZ (s.setA v)

/-- The 9-bit sum of ADD, an exact number in 0 to 510 (R120). -/
def exactSum (x y : Byte) : Nat := x.toNat + y.toNat

/-- C of ADD: `sum > 255`, the carry out of bit 7 (R120, R28). -/
def carryOut (x y : Byte) : Bool := decide (exactSum x y > 255)

/-- The result of ADD: `sum mod 256` (R120). -/
def sumByte (x y : Byte) : Byte := BitVec.ofNat 8 (exactSum x y % 256)

/-- The exact difference of SUB (R121). -/
def exactDifference (x y : Byte) : Int := (x.toNat : Int) - (y.toNat : Int)

/-- C of SUB: `A < B`, unsigned, a borrow (R121, R28, R124). -/
def borrowOut (x y : Byte) : Bool := decide (x.toNat < y.toNat)

/-- The result of SUB: `(A - B) mod 256`, `mod` non-negative (R121, R7). -/
def differenceByte (x y : Byte) : Byte := BitVec.ofNat 8 (exactDifference x y % 256).toNat

/-- Phase 5 of ADD: C, A and Z, all from A and B on entry (R120, R99 point 1). -/
def addPhase5 (s : State) : State := writeA (sumByte s.a s.b) (s.setC (carryOut s.a s.b))

/-- Phase 5 of SUB: C, A and Z, all from A and B on entry (R121, R99 point 2). -/
def subPhase5 (s : State) : State := writeA (differenceByte s.a s.b) (s.setC (borrowOut s.a s.b))

end Sys2Proof.Machine
end

