-- ==== Sys2Proof/Machine/Operands.lean ====
section
/-!
DEFINITION. The operand forms (30_encoding R73): no operand is assembled, shifted, scaled or added
to a base; it is the low nibble as it stands.
-/

namespace Sys2Proof.Machine

/-- Format M: the effective address is the operand, absolute direct (R73, R113). -/
def dataAddress (operand : Nibble) : Addr := operand

/-- Format J: the target is the operand, absolute (R73, R133). -/
def jumpTarget (operand : Nibble) : Addr := operand

/-- Format I: `zext_8(val)`, the operand widened with zeros (R73, R8; DEDUCED: decision D7, log entry 4). -/
def immediate (operand : Nibble) : Byte := operand.setWidth 8

/-- Phase 3 of LDA, ADD, SUB and STA: `MAR <- addr` (R95, R113). -/
def latchAddress (operand : Nibble) (s : State) : State := s.setMar (dataAddress operand)

/-- The memory operand in phase 4: `MemRead(MAR, 1)` (R99 point 5, R113). -/
def memoryOperand (s : State) : Byte := memRead s s.mar.toNat

/-- Phase 4 of ADD and SUB: `B <- MemRead(MAR, 1)` (R95, R22). -/
def loadB (s : State) : State := s.setB (memoryOperand s)

/-- Phase 3 of the jumps: `if taken then PC <- addr` (R133). -/
def jumpIf (taken : Bool) (operand : Nibble) (s : State) : State :=
  if taken then s.setPc (jumpTarget operand) else s

end Sys2Proof.Machine
end

