-- ==== Sys2Proof/Machine/Arithmetic.lean ====
section
/-!
DEFINITION. The meanings of ADD and SUB (42_arithmetic): each is its row of the dispatch table, one
cell for each execute phase.
-/

namespace Sys2Proof.Machine

/-- ADD addr (R120). -/
def execAdd (addr : Nibble) (s : State) : Host.Outcome State Fault Refusal :=
  executeCells (latchAddress addr) loadB addPhase5 s

/-- SUB addr (R121). -/
def execSub (addr : Nibble) (s : State) : Host.Outcome State Fault Refusal :=
  executeCells (latchAddress addr) loadB subPhase5 s

end Sys2Proof.Machine
end

