-- ==== Sys2Proof/Machine/Control.lean ====
section
/-!
DEFINITION. The meanings of JMP, JZ and JC (43_control_transfer). A jump reads its flag in phase 3,
on entry (40_controller_and_fetch R99 point 6), and writes no flag.
-/

namespace Sys2Proof.Machine

/-- JMP addr (R130). -/
def execJmp (addr : Nibble) (s : State) : Host.Outcome State Fault Refusal :=
  executeCells (jumpIf true addr) idle idle s

/-- JZ addr (R131). -/
def execJz (addr : Nibble) (s : State) : Host.Outcome State Fault Refusal :=
  executeCells (fun t => jumpIf t.z addr t) idle idle s

/-- JC addr (R132). -/
def execJc (addr : Nibble) (s : State) : Host.Outcome State Fault Refusal :=
  executeCells (fun t => jumpIf t.c addr t) idle idle s

end Sys2Proof.Machine
end

