-- ==== Sys2Proof/Machine/LoadStore.lean ====
section
/-!
DEFINITION. The meanings of LDA, STA and LDI (41_load_store): each is its row of the dispatch table,
one cell for each execute phase.
-/

namespace Sys2Proof.Machine

/-- LDA addr (R110). -/
def execLda (addr : Nibble) (s : State) : Host.Outcome State Fault Refusal :=
  executeCells (latchAddress addr) (fun t => writeA (memoryOperand t) t) idle s

/-- STA addr (R111). -/
def execSta (addr : Nibble) (s : State) : Host.Outcome State Fault Refusal :=
  executeCells (latchAddress addr) (fun t => memWrite t t.mar.toNat t.a) idle s

/-- LDI val (R112). -/
def execLdi (val : Nibble) (s : State) : Host.Outcome State Fault Refusal :=
  executeCells (writeA (immediate val)) idle idle s

end Sys2Proof.Machine
end

