-- ==== Sys2Proof/Machine/OutputHalt.lean ====
section
/-!
DEFINITION. The meanings of OUT, HLT and the undefined opcodes 0xA to 0xF (44_output_halt_undefined).
All of them ignore the operand nibble (30_encoding R73, R76; DEDUCED: log entry 5).
-/

namespace Sys2Proof.Machine

/-- OUT (R140). -/
def execOut (_ignored : Nibble) (s : State) : Host.Outcome State Fault Refusal :=
  executeCells (fun t => t.setOut t.a) idle idle s

/-- HLT (R141). Phases 4 and 5 are dashes; Step does not reach them, being gated (R91). -/
def execHlt (_ignored : Nibble) (s : State) : Host.Outcome State Fault Refusal :=
  executeCells (fun t => t.setHalted true) idle idle s

/-- Undefined opcode 0xA: a defined no-operation (R142). -/
def execRsvdA (_ignored : Nibble) (s : State) : Host.Outcome State Fault Refusal :=
  executeCells idle idle idle s

/-- Undefined opcode 0xB: a defined no-operation (R142). -/
def execRsvdB (_ignored : Nibble) (s : State) : Host.Outcome State Fault Refusal :=
  executeCells idle idle idle s

/-- Undefined opcode 0xC: a defined no-operation (R142). -/
def execRsvdC (_ignored : Nibble) (s : State) : Host.Outcome State Fault Refusal :=
  executeCells idle idle idle s

/-- Undefined opcode 0xD: a defined no-operation (R142). -/
def execRsvdD (_ignored : Nibble) (s : State) : Host.Outcome State Fault Refusal :=
  executeCells idle idle idle s

/-- Undefined opcode 0xE: a defined no-operation (R142). -/
def execRsvdE (_ignored : Nibble) (s : State) : Host.Outcome State Fault Refusal :=
  executeCells idle idle idle s

/-- Undefined opcode 0xF: a defined no-operation (R142). -/
def execRsvdF (_ignored : Nibble) (s : State) : Host.Outcome State Fault Refusal :=
  executeCells idle idle idle s

end Sys2Proof.Machine
end

