-- ==== Sys2Proof/Machine/Dispatch.lean ====
section
/-!
DEFINITION. The dispatch of the execute phases (40_controller_and_fetch R90, R95): `exec i s` is
Execute, the cell of instruction i for the phase that s is in. The advance of the phase counter is
Step's.
-/

namespace Sys2Proof.Machine

def exec (i : Instr) (s : State) : Host.Outcome State Fault Refusal :=
  match i with
  | .lda addr => Sys2Proof.Machine.execLda addr s
  | .add addr => Sys2Proof.Machine.execAdd addr s
  | .sub addr => Sys2Proof.Machine.execSub addr s
  | .sta addr => Sys2Proof.Machine.execSta addr s
  | .ldi val => Sys2Proof.Machine.execLdi val s
  | .jmp addr => Sys2Proof.Machine.execJmp addr s
  | .jz addr => Sys2Proof.Machine.execJz addr s
  | .jc addr => Sys2Proof.Machine.execJc addr s
  | .out ignored => Sys2Proof.Machine.execOut ignored s
  | .hlt ignored => Sys2Proof.Machine.execHlt ignored s
  | .rsvdA ignored => Sys2Proof.Machine.execRsvdA ignored s
  | .rsvdB ignored => Sys2Proof.Machine.execRsvdB ignored s
  | .rsvdC ignored => Sys2Proof.Machine.execRsvdC ignored s
  | .rsvdD ignored => Sys2Proof.Machine.execRsvdD ignored s
  | .rsvdE ignored => Sys2Proof.Machine.execRsvdE ignored s
  | .rsvdF ignored => Sys2Proof.Machine.execRsvdF ignored s

end Sys2Proof.Machine
end

