-- ==== Sys2Proof/Machine/Controller.lean ====
section
/-!
DEFINITION. The controller (40_controller_and_fetch R90 to R96): the body of a phase, the halt gate,
and how a fetched instruction is placed for the next Step.
-/

namespace Sys2Proof.Machine

/-- The instruction in IR, decoded afresh in each execute phase (R95, R98); it is not state
(10_state R32). -/
def currentInstr (s : State) : Instr := decode s.ir

/-- The phase body, chosen by the value of clockCycle before the Step (R90, R92 to R95). -/
def phaseBody (s : State) : Host.Outcome State Fault Refusal :=
  match s.clockCycle with
  | .addressSetup => .next (addressSetup s)
  | .pcIncrement => .next (pcIncrement s)
  | .fetch => .next (fetchWord s)
  | .execute3 | .execute4 | .execute5 => exec (currentInstr s) s

/-- The halt gate (R91): when Halted is true at the start of the Step there is no phase body. -/
def gatedBody (s : State) : Host.Outcome State Fault Refusal :=
  if s.halted then .next s else phaseBody s

/-- The advance of the phase counter after the body, always (R96). -/
def thenAdvance : Host.Outcome State Fault Refusal → Host.Outcome State Fault Refusal
  | .next s => .next (advanceClock s)
  | .fault r => .fault r
  | .refused r => .refused r

/-- The state in which the word `w` lies in the cell at PC, a running machine has done the fetch
phases 0, 1 and 2 for it, and phase 3 is next (R92 to R94, R97; DESIGN CHOICE: log entry 3). -/
def fetched (s : State) (w : Byte) : State :=
  (fetchWord (pcIncrement (addressSetup (memWrite s s.pc.toNat w)))).setHalted false
    |>.setClock .execute3

end Sys2Proof.Machine
end

