-- ==== Sys2Proof/Machine/Step.lean ====
section
/-!
DEFINITION. Step (40_controller_and_fetch R90): one clock phase.
-/

namespace Sys2Proof.Machine

/-- Step (R90): the phase body unless Halted, then the advance of the phase counter. -/
def step (s : State) : Host.Outcome State Fault Refusal := thenAdvance (gatedBody s)

/-- `s` with the instruction word fetched, so that the very next Step runs its first execute phase:
the word lies in the cell at PC, and the three fetch phases that Step would take from there are done
(DESIGN CHOICE: log entry 3). -/
def State.withFetchWord (s : State) (nbits w : Nat) : State := fetched s (tableByte nbits w)

end Sys2Proof.Machine
end

