-- ==== Sys2Proof/Machine/HostOps.lean ====
section
/-!
DEFINITION. The operations of the host (70_reset_and_hazards R170 to R174, R180): PowerOn, Reset,
LoadProgram, Step, Run and Snapshot. Each is total and happens between Steps.
-/

namespace Sys2Proof.Machine

/-- PowerOn, the construction of the machine (R170): every field of R35's first column. -/
def powerOn : State := State.reset

/-- Reset (R171): every register and flag as after PowerOn, memory untouched; legal in any state. -/
def resetOp (s : State) : State := State.reset.setMemory s.memory

/-- The loop of LoadProgram (R172) from cell `i` on: it ends after cell 15 and drops what is left. -/
def loadFrom : Nat → Image → State → State
  | _, [], s => s
  | i, v :: rest, s =>
    if i < Config.memoryCells then loadFrom (i + 1) rest (memWrite s i v) else s

/-- LoadProgram (R172): byte i of the image to cell i, at most 16, memory only; legal in any state
(DEDUCED: decision D5, log entry 9). -/
def loadProgram (bytes : Image) (s : State) : State := loadFrom 0 bytes s

/-- Run (R173): Step while the budget is not spent and the machine is not halted, both tested before
every Step (DEDUCED: decision D6, log entry 8). -/
def run : Nat → State → Host.Outcome State Fault Refusal
  | 0, s => .next s
  | n + 1, s =>
    if s.halted then .next s
    else
      match step s with
      | .next t => run n t
      | .fault r => .fault r
      | .refused r => .refused r

/-- Boot (R175): PowerOn, Reset, LoadProgram. -/
def boot (image : Image) : State := loadProgram image (resetOp powerOn)

/-- What the host reads (R37, R174): every field but the memory. -/
structure Snapshot where
  a : Byte
  b : Byte
  pc : Addr
  mar : Addr
  ir : Byte
  out : Byte
  z : Bool
  c : Bool
  halted : Bool
  clockCycle : Phase
  deriving DecidableEq, Repr

/-- Snapshot (R174): reading changes nothing. -/
def snapshot (s : State) : Snapshot where
  a := s.a
  b := s.b
  pc := s.pc
  mar := s.mar
  ir := s.ir
  out := s.out
  z := s.z
  c := s.c
  halted := s.halted
  clockCycle := s.clockCycle

/-- What a test bench reads of the memory (R37; DEDUCED: decision D17, log entry 16): the 16 cells. -/
def memoryCells (s : State) : Image := (List.range Config.memoryCells).map (memRead s)

/-- Everything the host can do to the core (R180). -/
inductive HostOp where
  | powerOn
  | reset
  | loadProgram (bytes : Image)
  | step
  | run (maxCycles : Nat)
  | snapshot
  deriving DecidableEq, Repr

/-- The state after a host operation (R180): every operation is total. -/
def applyOp (op : HostOp) (s : State) : Host.Outcome State Fault Refusal :=
  match op with
  | .powerOn => .next powerOn
  | .reset => .next (resetOp s)
  | .loadProgram bytes => .next (loadProgram bytes s)
  | .step => step s
  | .run maxCycles => run maxCycles s
  | .snapshot => .next s

end Sys2Proof.Machine
end

