-- ==== Sys2Proof/Safety.lean ====
section
/-!
DEFINITION. The terms the claims use: where an instruction cycle begins, when a run has ended, what
a whole instruction cycle does, and the invariant of the controller.
-/

namespace Sys2Proof.Machine

/-- `n` Steps, halted or not (40_controller_and_fetch R97: "six consecutive Steps"). -/
def steps : Nat → State → Host.Outcome State Fault Refusal
  | 0, s => .next s
  | n + 1, s =>
    match step s with
    | .next t => steps n t
    | .fault r => .fault r
    | .refused r => .refused r

/-- A running machine at the start of an instruction cycle (R97). -/
abbrev AtBoundary (s : State) : Prop := s.halted = false ∧ s.clockCycle = .addressSetup

/-- A running machine in one of the execute phases (R95). -/
abbrev Executing (s : State) : Prop :=
  s.halted = false ∧
    (s.clockCycle = .execute3 ∨ s.clockCycle = .execute4 ∨ s.clockCycle = .execute5)

/-- A run has ended at the first state in which Halted is true (70_reset_and_hazards R181). -/
abbrev Ended (s : State) : Prop := s.halted = true

/-- The instruction in the cell at PC. -/
def instrAtPc (s : State) : Instr := decode (memRead s s.pc.toNat)

/-- `t` differs from `s` in memory alone, and there in the cell `addr` alone, which holds `v`. -/
def StoredOnly (s t : State) (addr : Nat) (v : Byte) : Prop :=
  t = { s with memory := t.memory } ∧ memRead t addr = v ∧
    ∀ other, other % 16 ≠ addr % 16 → memRead t other = memRead s other

/-- What the execute phases of an instruction leave, as one function of the state after its fetch:
the "State written" lines of R110 to R142, with the address taken from the operand. -/
def cycleEffect (i : Instr) (t : State) : State :=
  match i with
  | .lda n => { t with mar := n, a := memRead t n.toNat, z := decide (memRead t n.toNat = 0) }
  | .add n =>
    { t with
      mar := n
      b := memRead t n.toNat
      c := decide (255 < t.a.toNat + (memRead t n.toNat).toNat)
      a := t.a + memRead t n.toNat
      z := decide (t.a + memRead t n.toNat = 0) }
  | .sub n =>
    { t with
      mar := n
      b := memRead t n.toNat
      c := decide (t.a < memRead t n.toNat)
      a := t.a - memRead t n.toNat
      z := decide (t.a = memRead t n.toNat) }
  | .sta n => { memWrite t n.toNat t.a with mar := n }
  | .ldi n => { t with a := n.setWidth 8, z := decide (n = 0) }
  | .jmp n => { t with pc := n }
  | .jz n => { t with pc := if t.z then n else t.pc }
  | .jc n => { t with pc := if t.c then n else t.pc }
  | .out _ => { t with out := t.a }
  | .hlt _ => { t with halted := true }
  | .rsvdA _ | .rsvdB _ | .rsvdC _ | .rsvdD _ | .rsvdE _ | .rsvdF _ => t

/-- What six Steps from the start of an instruction cycle leave (R97): the fetch of the word at PC
(R92 to R94), then the effect of its instruction; the phase counter is back at 0. -/
def instructionCycle (s : State) : State :=
  cycleEffect (instrAtPc s)
    { s with mar := s.pc, pc := s.pc + 1, ir := memRead s s.pc.toNat }

/-- What holds of a running machine when phase 3 of its instruction is done. -/
def AfterPhase3 (i : Instr) (s : State) : Prop :=
  match i with
  | .lda n | .add n | .sub n | .sta n => s.mar = n
  | .ldi n =>
    s.pc = s.mar + 1 ∧ s.ir = memRead s s.mar.toNat ∧ s.a = n.setWidth 8 ∧ s.z = decide (s.a = 0)
  | .jmp n => s.pc = n ∧ s.ir = memRead s s.mar.toNat
  | .jz n => s.pc = (if s.z then n else s.mar + 1) ∧ s.ir = memRead s s.mar.toNat
  | .jc n => s.pc = (if s.c then n else s.mar + 1) ∧ s.ir = memRead s s.mar.toNat
  | .out _ => s.pc = s.mar + 1 ∧ s.ir = memRead s s.mar.toNat ∧ s.out = s.a
  | .hlt _ => False
  | .rsvdA _ | .rsvdB _ | .rsvdC _ | .rsvdD _ | .rsvdE _ | .rsvdF _ =>
    s.pc = s.mar + 1 ∧ s.ir = memRead s s.mar.toNat

/-- What holds of a running machine when phase 4 of its instruction is done. -/
def AfterPhase4 (i : Instr) (s : State) : Prop :=
  match i with
  | .lda n => s.mar = n ∧ s.a = memRead s s.mar.toNat ∧ s.z = decide (s.a = 0)
  | .add n | .sub n => s.mar = n ∧ s.b = memRead s s.mar.toNat
  | .sta n => s.mar = n ∧ memRead s s.mar.toNat = s.a
  | .ldi _ | .jmp _ | .jz _ | .jc _ | .out _ | .hlt _
  | .rsvdA _ | .rsvdB _ | .rsvdC _ | .rsvdD _ | .rsvdE _ | .rsvdF _ => AfterPhase3 i s

/-- The invariant that Steps keep: the memory is in canonical form (DESIGN CHOICE: log
entry 7); a halted machine holds its HLT word in IR, the address of it in MAR and the next address
in PC (R141); and in each phase the registers hold what the phases before it in the same cycle left
(R99, R36). -/
def ControllerInv (s : State) : Prop :=
  s.memory.wf = true ∧
    (s.halted = true →
      s.pc = s.mar + 1 ∧ s.ir = memRead s s.mar.toNat ∧ ∃ n, decode s.ir = .hlt n) ∧
    (s.halted = false →
      match s.clockCycle with
      | .addressSetup => True
      | .pcIncrement => s.mar = s.pc
      | .fetch => s.pc = s.mar + 1
      | .execute3 => s.pc = s.mar + 1 ∧ s.ir = memRead s s.mar.toNat
      | .execute4 => AfterPhase3 (decode s.ir) s
      | .execute5 => AfterPhase4 (decode s.ir) s)

end Sys2Proof.Machine
end

