-- ==== Sys2Proof/Certificates/Slice0/Obligations.lean ====
section
/-!
DEFINITION. The statements for the provers. Where a statement rests on one of the spec's own decisions
D1 to D20, its docstring names it and the log entry.
-/

open Sys2Proof Sys2Proof.Machine

/-- 30_encoding R72: decode(w) = (w >> 4, w & 0xF), a bijection between words and pairs of nibbles
(R72 marks the bijection as derived from the law). -/
def Obligations.DecoderSplitsWordIntoNibbles : Prop :=
  (∀ w : Byte,
    (fields w).1.toNat = w.toNat / 16 ∧ (fields w).2.toNat = w.toNat % 16 ∧
      (fields w).1.toNat * 16 + (fields w).2.toNat = w.toNat) ∧
  ∀ op n : Nibble, ∃! w : Byte, fields w = (op, n)

/-- 30_encoding R71, R72, R74, R80: decode and encode agree in both directions. -/
def Obligations.DecodeAndEncodeAreInverse : Prop :=
  (∀ i : Instr, decode (encode i) = i) ∧ (∀ w : Byte, encode (decode w) = w) ∧
    ∀ i : Instr, (encode i).toNat = (opcodeOf i).toNat * 16 + (operandOf i).toNat

/-- 30_encoding R74: "A decoder is: match on `word & 0xF0`."; R95: the decode is of IR. -/
def Obligations.OpcodeOfIrSelectsItsRow : Prop :=
  ∀ s : State,
    (∃ k : Nat, k < 16 ∧ (s.ir &&& 0xF0#8).toNat = 16 * k) ∧
    (s.ir &&& 0xF0#8 = 0x00#8 → currentInstr s = .lda (s.ir.setWidth 4)) ∧
    (s.ir &&& 0xF0#8 = 0x10#8 → currentInstr s = .add (s.ir.setWidth 4)) ∧
    (s.ir &&& 0xF0#8 = 0x20#8 → currentInstr s = .sub (s.ir.setWidth 4)) ∧
    (s.ir &&& 0xF0#8 = 0x30#8 → currentInstr s = .sta (s.ir.setWidth 4)) ∧
    (s.ir &&& 0xF0#8 = 0x40#8 → currentInstr s = .ldi (s.ir.setWidth 4)) ∧
    (s.ir &&& 0xF0#8 = 0x50#8 → currentInstr s = .jmp (s.ir.setWidth 4)) ∧
    (s.ir &&& 0xF0#8 = 0x60#8 → currentInstr s = .jz (s.ir.setWidth 4)) ∧
    (s.ir &&& 0xF0#8 = 0x70#8 → currentInstr s = .jc (s.ir.setWidth 4)) ∧
    (s.ir &&& 0xF0#8 = 0x80#8 → currentInstr s = .out (s.ir.setWidth 4)) ∧
    (s.ir &&& 0xF0#8 = 0x90#8 → currentInstr s = .hlt (s.ir.setWidth 4)) ∧
    (s.ir &&& 0xF0#8 = 0xA0#8 → currentInstr s = .rsvdA (s.ir.setWidth 4)) ∧
    (s.ir &&& 0xF0#8 = 0xB0#8 → currentInstr s = .rsvdB (s.ir.setWidth 4)) ∧
    (s.ir &&& 0xF0#8 = 0xC0#8 → currentInstr s = .rsvdC (s.ir.setWidth 4)) ∧
    (s.ir &&& 0xF0#8 = 0xD0#8 → currentInstr s = .rsvdD (s.ir.setWidth 4)) ∧
    (s.ir &&& 0xF0#8 = 0xE0#8 → currentInstr s = .rsvdE (s.ir.setWidth 4)) ∧
    (s.ir &&& 0xF0#8 = 0xF0#8 → currentInstr s = .rsvdF (s.ir.setWidth 4))

/-- The words the spec writes out decode to the instructions it names. -/
def Obligations.SampleWordsDecodeAsListed : Prop :=
  decode 0x42 = .ldi 2 ∧ decode 0x1F = .add 15 ∧ decode 0x80 = .out 0 ∧ decode 0x90 = .hlt 0 ∧
    decode 0x00 = .lda 0 ∧ decode 0x9F = .hlt 15 ∧ decode 0xA7 = .rsvdA 7 ∧ decode 0xFF = .rsvdF 15

/-- 30_encoding R76, R73 and R142 with decision D8 (log entry 5): the low nibble of format N
selects nothing. -/
def Obligations.IgnoredOperandBitsHaveNoEffect : Prop :=
  ∀ (s : State) (w w' : Byte), Executing s →
    (w.toNat / 16 = w'.toNat / 16 ∧ (w.toNat / 16 = 8 ∨ w.toNat / 16 = 9)) ∨
      (10 ≤ w.toNat / 16 ∧ 10 ≤ w'.toNat / 16) →
    ∃ t : State, step { s with ir := w } = .next { t with ir := w } ∧
      step { s with ir := w' } = .next { t with ir := w' }

/-- A halted Step changes clockCycle and nothing else; the Step in which HLT sets Halted is not
gated (R91). -/
def Obligations.HaltedStepAdvancesPhaseOnly : Prop :=
  (∀ s : State, s.halted = true →
    step s = .next { s with clockCycle := nextPhase s.clockCycle }) ∧
  ∀ (s : State) (n : Nibble), s.halted = false → s.clockCycle = .execute3 → decode s.ir = .hlt n →
    step s = .next { s with halted := true, clockCycle := .execute4 }

/-- Phase 0 copies PC to MAR and changes nothing else (R92). -/
def Obligations.AddressSetupCopiesPcToMar : Prop :=
  ∀ s : State, s.halted = false → s.clockCycle = .addressSetup →
    step s = .next { s with mar := s.pc, clockCycle := .pcIncrement }

/-- Phase 1 adds one to PC modulo 16 and changes nothing else (R93). -/
def Obligations.PcIncrementAddsOneModuloSixteen : Prop :=
  ∀ s : State, s.halted = false → s.clockCycle = .pcIncrement →
    ∃ pc' : Addr, pc'.toNat = (s.pc.toNat + 1) % 16 ∧ (s.pc = 15 → pc' = 0) ∧
      step s = .next { s with pc := pc', clockCycle := .fetch }

/-- Phase 2 loads IR from the cell at MAR and changes nothing else (R94). -/
def Obligations.FetchLoadsIrFromCellAtMar : Prop :=
  (∀ s : State, s.halted = false → s.clockCycle = .fetch →
    step s = .next { s with ir := memRead s s.mar.toNat, clockCycle := .execute3 }) ∧
  ∀ s : State, AtBoundary s → ∃ t, steps 3 s = .next t ∧ t.mar = s.pc ∧ t.ir = memRead s s.pc.toNat

/-- 40_controller_and_fetch R90, R95, R97: Execute(opcode, operand, clockCycle) of decode(IR) in
phases 3, 4 and 5, then the advance. -/
def Obligations.StepRunsTheDecodedInstruction : Prop :=
  (∀ (s : State) (i : Instr), Executing s → decode s.ir = i →
    step s = match exec i s with
      | .next t => .next { t with clockCycle := nextPhase t.clockCycle }
      | .fault r => .fault r
      | .refused r => .refused r) ∧
  ∀ (s : State) (i : Instr), AtBoundary s → decode (memRead s s.pc.toNat) = i →
    ∃ u, steps 3 s = .next u ∧
      u = { s with mar := s.pc, pc := s.pc + 1, ir := memRead s s.pc.toNat, clockCycle := .execute3 } ∧
      step u = match exec i u with
        | .next t => .next { t with clockCycle := .execute4 }
        | .fault r => .fault r
        | .refused r => .refused r

/-- clockCycle counts Steps modulo 6, halted or not, and is advanced after the body (R96). -/
def Obligations.PhaseCounterCountsModuloSix : Prop :=
  (∀ (n : Nat) (s : State), ∃ t, steps n s = .next t ∧
    phaseNumber t.clockCycle = (phaseNumber s.clockCycle + n) % 6) ∧
  (∀ n : Nat, ∃ t, steps n State.reset = .next t ∧ phaseNumber t.clockCycle = n % 6) ∧
  (∀ s : State, ∃ u, (if s.halted then u = s else phaseBody s = .next u) ∧
    step s = .next { u with clockCycle := nextPhase s.clockCycle })

/-- 40_controller_and_fetch R101, 60_exceptions R150 and 70_reset_and_hazards R180 with decision
D15 (log entry 6). -/
def Obligations.EveryHostOperationCompletes : Prop :=
  (∀ (op : HostOp) (s : State), ∃ t, applyOp op s = .next t) ∧
  ∀ (n : Nat) (s : State), ∃ t, steps n s = .next t

/-- LDA addr: MAR is addr in phase 3, A is the cell at MAR and Z its zero test in phase 4, nothing
in phase 5 (R110). -/
def Obligations.LdaLoadsAccumulatorAndZeroFlag : Prop :=
  ∀ (n : Nibble) (s : State),
    decode (0x00#8 + n.setWidth 8) = .lda n ∧
    (s.clockCycle = .execute3 → exec (.lda n) s = .next { s with mar := n }) ∧
    (s.clockCycle = .execute4 → exec (.lda n) s =
      .next { s with a := memRead s s.mar.toNat, z := decide (memRead s s.mar.toNat = 0x00) }) ∧
    (s.clockCycle = .execute5 → exec (.lda n) s = .next s)

/-- STA addr: MAR is addr in phase 3, the cell at MAR is A in phase 4, nothing in phase 5 (R111). -/
def Obligations.StaStoresAccumulatorAtMar : Prop :=
  ∀ (n : Nibble) (s : State),
    decode (0x30#8 + n.setWidth 8) = .sta n ∧
    (s.clockCycle = .execute3 → exec (.sta n) s = .next { s with mar := n }) ∧
    (s.clockCycle = .execute4 → ∃ t, exec (.sta n) s = .next t ∧ StoredOnly s t s.mar.toNat s.a) ∧
    (s.clockCycle = .execute5 → exec (.sta n) s = .next s)

/-- 41_load_store R112 with decision D7 (log entry 4): A <- zext_8(val), then UpdateZ. -/
def Obligations.LdiLoadsZeroExtendedImmediate : Prop :=
  ∀ (n : Nibble) (s : State),
    decode (0x40#8 + n.setWidth 8) = .ldi n ∧
    (s.clockCycle = .execute3 → ∃ v : Byte, v.toNat = n.toNat ∧
      exec (.ldi n) s = .next { s with a := v, z := decide (n.toNat = 0) }) ∧
    (s.clockCycle = .execute4 → exec (.ldi n) s = .next s) ∧
    (s.clockCycle = .execute5 → exec (.ldi n) s = .next s)

/-- ADD addr: MAR in phase 3, B in phase 4, and in phase 5 the 8-bit sum, the carry out and the
zero test (R120). -/
def Obligations.AddWritesSumCarryAndZero : Prop :=
  ∀ (n : Nibble) (s : State),
    decode (0x10#8 + n.setWidth 8) = .add n ∧
    (s.clockCycle = .execute3 → exec (.add n) s = .next { s with mar := n }) ∧
    (s.clockCycle = .execute4 → exec (.add n) s = .next { s with b := memRead s s.mar.toNat }) ∧
    (s.clockCycle = .execute5 → ∃ r : Byte, r.toNat = (s.a.toNat + s.b.toNat) % 256 ∧
      exec (.add n) s = .next { s with
        a := r
        c := decide (s.a.toNat + s.b.toNat > 255)
        z := decide ((s.a.toNat + s.b.toNat) % 256 = 0) })

/-- SUB addr: MAR in phase 3, B in phase 4, and in phase 5 the difference modulo 256, the borrow
and the zero test (R121). -/
def Obligations.SubWritesDifferenceBorrowAndZero : Prop :=
  ∀ (n : Nibble) (s : State),
    decode (0x20#8 + n.setWidth 8) = .sub n ∧
    (s.clockCycle = .execute3 → exec (.sub n) s = .next { s with mar := n }) ∧
    (s.clockCycle = .execute4 → exec (.sub n) s = .next { s with b := memRead s s.mar.toNat }) ∧
    (s.clockCycle = .execute5 → ∃ r : Byte,
      (r.toNat : Int) = ((s.a.toNat : Int) - s.b.toNat) % 256 ∧ (r = 0 ↔ s.a = s.b) ∧
      exec (.sub n) s = .next { s with
        a := r
        c := decide (s.a.toNat < s.b.toNat)
        z := decide (r = 0) })

/-- JMP addr: PC is addr in phase 3, nothing after (R130). -/
def Obligations.JmpWritesPc : Prop :=
  ∀ (n : Nibble) (s : State),
    decode (0x50#8 + n.setWidth 8) = .jmp n ∧
    (s.clockCycle = .execute3 → exec (.jmp n) s = .next { s with pc := n }) ∧
    (s.clockCycle = .execute4 → exec (.jmp n) s = .next s) ∧
    (s.clockCycle = .execute5 → exec (.jmp n) s = .next s)

/-- JZ addr: PC is addr in phase 3 if Z is true, else unchanged; nothing after (R131). -/
def Obligations.JzWritesPcIfZero : Prop :=
  ∀ (n : Nibble) (s : State),
    decode (0x60#8 + n.setWidth 8) = .jz n ∧
    (s.clockCycle = .execute3 → exec (.jz n) s = .next { s with pc := if s.z then n else s.pc }) ∧
    (s.clockCycle = .execute4 → exec (.jz n) s = .next s) ∧
    (s.clockCycle = .execute5 → exec (.jz n) s = .next s)

/-- JC addr: PC is addr in phase 3 if C is true, else unchanged; nothing after (R132). -/
def Obligations.JcWritesPcIfCarry : Prop :=
  ∀ (n : Nibble) (s : State),
    decode (0x70#8 + n.setWidth 8) = .jc n ∧
    (s.clockCycle = .execute3 → exec (.jc n) s = .next { s with pc := if s.c then n else s.pc }) ∧
    (s.clockCycle = .execute4 → exec (.jc n) s = .next s) ∧
    (s.clockCycle = .execute5 → exec (.jc n) s = .next s)

/-- 44_output_halt_undefined R140 with decision D8 (log entry 5): OUT <- A in phase 3. -/
def Obligations.OutCopiesAccumulatorToOut : Prop :=
  ∀ (n : Nibble) (s : State),
    decode (0x80#8 + n.setWidth 8) = .out n ∧
    (s.clockCycle = .execute3 → exec (.out n) s = .next { s with out := s.a }) ∧
    (s.clockCycle = .execute4 → exec (.out n) s = .next s) ∧
    (s.clockCycle = .execute5 → exec (.out n) s = .next s)

/-- 44_output_halt_undefined R141 with decision D8 (log entry 5): Halted <- true in phase 3. -/
def Obligations.HltSetsHalted : Prop :=
  ∀ (n : Nibble) (s : State),
    decode (0x90#8 + n.setWidth 8) = .hlt n ∧
    (s.clockCycle = .execute3 → exec (.hlt n) s = .next { s with halted := true })

/-- 44_output_halt_undefined R142: "a defined, not a failure, behavior". Inferred decisions D16
and D8 (log entries 13 and 5). -/
def Obligations.UndefinedOpcodesDoNothing : Prop :=
  ∀ (n : Nibble) (s : State),
    (decode (0xA0#8 + n.setWidth 8) = .rsvdA n ∧ decode (0xB0#8 + n.setWidth 8) = .rsvdB n ∧
      decode (0xC0#8 + n.setWidth 8) = .rsvdC n ∧ decode (0xD0#8 + n.setWidth 8) = .rsvdD n ∧
      decode (0xE0#8 + n.setWidth 8) = .rsvdE n ∧ decode (0xF0#8 + n.setWidth 8) = .rsvdF n) ∧
    (s.clockCycle = .execute3 ∨ s.clockCycle = .execute4 ∨ s.clockCycle = .execute5 →
      exec (.rsvdA n) s = .next s ∧ exec (.rsvdB n) s = .next s ∧ exec (.rsvdC n) s = .next s ∧
        exec (.rsvdD n) s = .next s ∧ exec (.rsvdE n) s = .next s ∧ exec (.rsvdF n) s = .next s)

/-- What LDA and LDI leave unchanged: LDA all but MAR, A and Z, LDI all but A and Z, and every
byte of memory. -/
def Obligations.LoadFrame : Prop :=
  (∀ (n : Nibble) (s t : State), exec (.lda n) s = .next t →
    t.b = s.b ∧ t.pc = s.pc ∧ t.ir = s.ir ∧ t.out = s.out ∧ t.c = s.c ∧ t.halted = s.halted ∧
      t.clockCycle = s.clockCycle ∧ ∀ addr, memRead t addr = memRead s addr) ∧
  ∀ (n : Nibble) (s t : State), exec (.ldi n) s = .next t →
    t.b = s.b ∧ t.pc = s.pc ∧ t.mar = s.mar ∧ t.ir = s.ir ∧ t.out = s.out ∧ t.c = s.c ∧
      t.halted = s.halted ∧ t.clockCycle = s.clockCycle ∧ ∀ addr, memRead t addr = memRead s addr

/-- What ADD and SUB leave unchanged: all but MAR, B, A, C and Z, and every byte of memory. -/
def Obligations.ArithmeticFrame : Prop :=
  ∀ (n : Nibble) (i : Instr) (s t : State), (i = .add n ∨ i = .sub n) → exec i s = .next t →
    t.pc = s.pc ∧ t.ir = s.ir ∧ t.out = s.out ∧ t.halted = s.halted ∧
      t.clockCycle = s.clockCycle ∧ ∀ addr, memRead t addr = memRead s addr

/-- What STA leaves unchanged: every register and flag but MAR, and every byte of memory but the
cell stored to. -/
def Obligations.StoreFrame : Prop :=
  (∀ (n : Nibble) (s t : State), exec (.sta n) s = .next t →
    t.a = s.a ∧ t.b = s.b ∧ t.pc = s.pc ∧ t.ir = s.ir ∧ t.out = s.out ∧ t.z = s.z ∧ t.c = s.c ∧
      t.halted = s.halted ∧ t.clockCycle = s.clockCycle ∧
      (s.clockCycle ≠ .execute3 → t.mar = s.mar) ∧
      (s.clockCycle ≠ .execute4 → ∀ addr, memRead t addr = memRead s addr) ∧
      (s.clockCycle = .execute4 →
        ∀ addr, addr % 16 ≠ s.mar.toNat → memRead t addr = memRead s addr)) ∧
  ∀ (n : Nibble) (s : State), AtBoundary s → instrAtPc s = .sta n →
    ∃ t, steps 6 s = .next t ∧ t.a = s.a ∧ t.b = s.b ∧ t.out = s.out ∧ t.z = s.z ∧ t.c = s.c ∧
      t.halted = s.halted ∧ memRead t n.toNat = s.a ∧
      ∀ addr, addr % 16 ≠ n.toNat → memRead t addr = memRead s addr

/-- What JMP, JZ and JC leave unchanged: every register but PC, every flag, and every byte of
memory. -/
def Obligations.JumpFrame : Prop :=
  ∀ (n : Nibble) (i : Instr) (s t : State), (i = .jmp n ∨ i = .jz n ∨ i = .jc n) →
    exec i s = .next t →
    t.a = s.a ∧ t.b = s.b ∧ t.mar = s.mar ∧ t.ir = s.ir ∧ t.out = s.out ∧ t.z = s.z ∧ t.c = s.c ∧
      t.halted = s.halted ∧ t.clockCycle = s.clockCycle ∧ ∀ addr, memRead t addr = memRead s addr

/-- What OUT, HLT and the undefined opcodes leave unchanged: OUT all but the output register, HLT
all but Halted, the others everything. -/
def Obligations.OutputHaltUndefinedFrame : Prop :=
  (∀ (n : Nibble) (s t : State), exec (.out n) s = .next t →
    t = { s with out := t.out } ∧ ∀ addr, memRead t addr = memRead s addr) ∧
  (∀ (n : Nibble) (s t : State), exec (.hlt n) s = .next t →
    t = { s with halted := t.halted } ∧ ∀ addr, memRead t addr = memRead s addr) ∧
  ∀ (n : Nibble) (i : Instr) (s t : State),
    (i = .rsvdA n ∨ i = .rsvdB n ∨ i = .rsvdC n ∨ i = .rsvdD n ∨ i = .rsvdE n ∨ i = .rsvdF n) →
    exec i s = .next t → t = s

/-- A is written by LDA in phase 4, LDI in phase 3, ADD and SUB in phase 5 and by no other Step.
The LDI clause rests on the inferred decision D7 (log entry 4). -/
def Obligations.AccumulatorNextValue : Prop :=
  ∀ s : State, ∃ t, step s = .next t ∧
    t.a = if s.halted then s.a else
      match s.clockCycle, decode s.ir with
      | .execute4, .lda _ => memRead s s.mar.toNat
      | .execute3, .ldi n => n.setWidth 8
      | .execute5, .add _ => s.a + s.b
      | .execute5, .sub _ => s.a - s.b
      | _, _ => s.a

/-- B is written by ADD and SUB in phase 4 and by no other Step. -/
def Obligations.ScratchRegisterNextValue : Prop :=
  ∀ s : State, ∃ t, step s = .next t ∧
    t.b = if s.halted then s.b else
      match s.clockCycle, decode s.ir with
      | .execute4, .add _ => memRead s s.mar.toNat
      | .execute4, .sub _ => memRead s s.mar.toNat
      | _, _ => s.b

/-- PC, MAR and IR are written by the fetch phases, PC by the jumps and MAR by the memory
instructions in phase 3, and by no other Step. -/
def Obligations.FetchRegistersNextValue : Prop :=
  ∀ s : State, ∃ t, step s = .next t ∧
    (t.pc = if s.halted then s.pc else
      match s.clockCycle, decode s.ir with
      | .pcIncrement, _ => s.pc + 1
      | .execute3, .jmp n => n
      | .execute3, .jz n => if s.z then n else s.pc
      | .execute3, .jc n => if s.c then n else s.pc
      | _, _ => s.pc) ∧
    (t.mar = if s.halted then s.mar else
      match s.clockCycle, decode s.ir with
      | .addressSetup, _ => s.pc
      | .execute3, .lda n => n
      | .execute3, .add n => n
      | .execute3, .sub n => n
      | .execute3, .sta n => n
      | _, _ => s.mar) ∧
    (t.ir = if s.halted then s.ir else
      match s.clockCycle with
      | .fetch => memRead s s.mar.toNat
      | _ => s.ir)

/-- OUT is written by the OUT instruction alone, Halted is set by HLT alone and cleared by no
Step. -/
def Obligations.OutputAndHaltNextValue : Prop :=
  ∀ s : State, ∃ t, step s = .next t ∧
    (t.out = if s.halted then s.out else
      match s.clockCycle, decode s.ir with
      | .execute3, .out _ => s.a
      | _, _ => s.out) ∧
    (t.halted = true ↔
      s.halted = true ∨ (s.clockCycle = .execute3 ∧ ∃ n, decode s.ir = .hlt n))

/-- Z is A == 0 for the A just written by LDA, LDI, ADD and SUB, and no other Step writes it
(R123). -/
def Obligations.ZeroFlagFollowsTheFourWritersOfA : Prop :=
  (∀ s : State, ∃ t, step s = .next t ∧
    t.z = if s.halted then s.z else
      match s.clockCycle, decode s.ir with
      | .execute4, .lda _ => decide (t.a = 0)
      | .execute3, .ldi _ => decide (t.a = 0)
      | .execute5, .add _ => decide (t.a = 0)
      | .execute5, .sub _ => decide (t.a = 0)
      | _, _ => s.z) ∧
  ∀ (n : Nibble) (s : State), s.clockCycle = .execute5 → s.a = 255 → s.b = 1 →
    ∃ t, exec (.add n) s = .next t ∧ t.a = 0 ∧ t.z = true ∧ t.c = true

/-- C is written by ADD and SUB in phase 5, carry and borrow, and by no other Step. -/
def Obligations.CarryFlagNextValue : Prop :=
  ∀ s : State, ∃ t, step s = .next t ∧
    t.c = if s.halted then s.c else
      match s.clockCycle, decode s.ir with
      | .execute5, .add _ => decide (255 < s.a.toNat + s.b.toNat)
      | .execute5, .sub _ => decide (s.a.toNat < s.b.toNat)
      | _, _ => s.c

/-- A Step writes memory only in phase 4 of STA, and there one cell. -/
def Obligations.MemoryNextContent : Prop :=
  ∀ s : State, ∃ t, step s = .next t ∧ ∀ addr : Nat,
    memRead t addr = if s.halted then memRead s addr else
      match s.clockCycle, decode s.ir with
      | .execute4, .sta _ => if addr % 16 = s.mar.toNat then s.a else memRead s addr
      | _, _ => memRead s addr

/-- Z is read by JZ in phase 3 alone: any other Step does the same whatever Z is. -/
def Obligations.ZeroFlagReadOnlyByJz : Prop :=
  ∀ (s : State) (v : Bool),
    ¬ (s.halted = false ∧ s.clockCycle = .execute3 ∧ ∃ n, decode s.ir = .jz n) →
    ∃ t t', step s = .next t ∧ step { s with z := v } = .next t' ∧ t' = { t with z := t'.z } ∧
      (t'.z = t.z ∨ (t'.z = v ∧ t.z = s.z))

/-- C is read by JC in phase 3 alone: there is no carry-in, and any other Step does the same
whatever C is. -/
def Obligations.CarryFlagReadOnlyByJc : Prop :=
  ∀ (s : State) (v : Bool),
    ¬ (s.halted = false ∧ s.clockCycle = .execute3 ∧ ∃ n, decode s.ir = .jc n) →
    ∃ t t', step s = .next t ∧ step { s with c := v } = .next t' ∧ t' = { t with c := t'.c } ∧
      (t'.c = t.c ∨ (t'.c = v ∧ t.c = s.c))

/-- 10_state R22: "a program cannot observe B except through the result of the ADD or SUB that
loaded it" (the premise leaves out the one Step that reads B, phase 5 of a running ADD or
SUB); R26: OUT is "Never read by any instruction". -/
def Obligations.ScratchAndOutputRegistersAreUnobservable : Prop :=
  ∀ (n : Nat) (s : State) (vb vo : Byte),
    ¬ (s.halted = false ∧ s.clockCycle = .execute5 ∧
      ∃ k, decode s.ir = .add k ∨ decode s.ir = .sub k) →
    ∃ t wb wo, steps n s = .next t ∧
      steps n { s with b := vb, out := vo } = .next { t with b := wb, out := wo }

/-- After SUB, C and Z are the unsigned comparison of the old A with the operand; after ADD both
are true exactly when the sum is 256. -/
def Obligations.FlagsAfterSubAndAddCompareUnsigned : Prop :=
  (∀ (n : Nibble) (s : State), s.clockCycle = .execute5 →
    ∃ t, exec (.sub n) s = .next t ∧ (t.c = true ↔ s.a.toNat < s.b.toNat) ∧
      (t.z = true ↔ s.a.toNat = s.b.toNat) ∧
      (t.c = false ∧ t.z = false ↔ s.b.toNat < s.a.toNat) ∧ ¬ (t.c = true ∧ t.z = true) ∧
      t.a.toNat + s.b.toNat = s.a.toNat + if t.c then 256 else 0) ∧
  ∀ (n : Nibble) (s : State), s.clockCycle = .execute5 →
    ∃ t, exec (.add n) s = .next t ∧
      t.a.toNat + (if t.c then 256 else 0) = s.a.toNat + s.b.toNat ∧
      (t.c = true ∧ t.z = true ↔ s.a.toNat + s.b.toNat = 256)

/-- 40_controller_and_fetch R97: six consecutive Steps form one instruction cycle; it executes the
word fetched in its phase 2. The right side (Safety.lean) computes the whole effect in one go,
with the values of the dispatch table of R95 (each instruction's own rule, R110 to R142, gives
them too). It rests on the inferred decisions D7 and D8 (log entries 4 and 5). -/
def Obligations.SixStepsAreOneInstructionCycle : Prop :=
  ∀ s : State, AtBoundary s → steps 6 s = .next (instructionCycle s)

/-- After a jump the next instruction fetched is the one at the target, with nothing in between
and nothing else written (R133). -/
def Obligations.JumpContinuesAtItsTargetWithoutDelay : Prop :=
  (∀ (s : State) (n : Nibble) (taken : Bool), AtBoundary s →
    (instrAtPc s = .jmp n ∧ taken = true) ∨ (instrAtPc s = .jz n ∧ taken = s.z) ∨
      (instrAtPc s = .jc n ∧ taken = s.c) →
    ∃ target : Addr, target = (if taken then n else s.pc + 1) ∧
      steps 6 s = .next { s with mar := s.pc, ir := memRead s s.pc.toNat, pc := target } ∧
      steps 9 s = .next { s with
        mar := target
        ir := memRead s target.toNat
        pc := target + 1
        clockCycle := .execute3 }) ∧
  ∀ s t : State, Executing s → step s = .next t → t.pc ≠ s.pc →
    s.clockCycle = .execute3 ∧
      ∃ n, t.pc = n ∧ (decode s.ir = .jmp n ∨ decode s.ir = .jz n ∨ decode s.ir = .jc n)

/-- PC is the sequential successor from phase 1 on unless a jump is taken in phase 3, and the next
cycle fetches from it (R134). -/
def Obligations.PcHoldsSuccessorOrTakenTarget : Prop :=
  ∀ s : State, AtBoundary s →
    (∀ k : Nat, 2 ≤ k → k ≤ 6 → ∃ t, steps k s = .next t ∧
      (match instrAtPc s with
        | .jmp n => t.pc.toNat = if 4 ≤ k then n.toNat else (s.pc.toNat + 1) % 16
        | .jz n => t.pc.toNat = if 4 ≤ k ∧ s.z = true then n.toNat else (s.pc.toNat + 1) % 16
        | .jc n => t.pc.toNat = if 4 ≤ k ∧ s.c = true then n.toNat else (s.pc.toNat + 1) % 16
        | _ => t.pc.toNat = (s.pc.toNat + 1) % 16)) ∧
    ((∀ n, instrAtPc s ≠ .hlt n) →
      ∃ t u, steps 6 s = .next t ∧ AtBoundary t ∧ steps 9 s = .next u ∧ u.mar = t.pc ∧
        u.ir = memRead t t.pc.toNat)

/-- A store to the next cell is what the next cycle fetches; a store to its own cell leaves the
executing instruction as it was. -/
def Obligations.StoreIntoProgramIsSeenByNextFetch : Prop :=
  ∀ (s : State) (n : Nibble), AtBoundary s → instrAtPc s = .sta n →
    (∃ t, steps 6 s = .next t ∧ t.ir = memRead s s.pc.toNat ∧ memRead t n.toNat = s.a ∧
      t.pc = s.pc + 1) ∧
    (n = s.pc + 1 → ∃ t, steps 9 s = .next t ∧ t.ir = s.a ∧ decode t.ir = decode s.a)

/-- 10_state R29 and S8; that Run tests Halted before its first Step is the spec's decision D6
(log entry 8). -/
def Obligations.HaltedIsStickyForever : Prop :=
  ∀ (n : Nat) (s : State), s.halted = true →
    (∃ p, steps n s = .next { s with clockCycle := p } ∧
      phaseNumber p = (phaseNumber s.clockCycle + n) % 6) ∧
    run n s = .next s

/-- A HLT cycle halts at its fourth Step, with clockCycle 4, PC after the HLT, MAR at it and its
word in IR. -/
def Obligations.HaltLeavesTheStateOfTheHltWord : Prop :=
  ∀ (s : State) (n : Nibble), AtBoundary s → instrAtPc s = .hlt n →
    ∃ t u, steps 3 s = .next u ∧ u.halted = false ∧ steps 4 s = .next t ∧
      t = { s with
        halted := true
        clockCycle := .execute4
        pc := s.pc + 1
        mar := s.pc
        ir := memRead s s.pc.toNat } ∧
      ∀ budget, 4 ≤ budget → run budget s = .next t

/-- 70_reset_and_hazards R173: "executing k complete instructions takes 6k Steps, and an
instruction stream ending in a HLT as its k-th instruction halts after exactly 6(k-1) + 4
Steps". -/
def Obligations.ProgramHaltsAfterSixStepsAnInstructionPlusFour : Prop :=
  ∀ (k : Nat) (s : State), AtBoundary s →
    (∀ j, j < k → ∃ t, steps (6 * j) s = .next t ∧ ∀ n, instrAtPc t ≠ .hlt n) →
    (∃ t n, steps (6 * k) s = .next t ∧ instrAtPc t = .hlt n) →
    ∃ u, steps (6 * k + 4) s = .next u ∧ u.halted = true ∧
      (∀ m, m < 6 * k + 4 → ∃ v, steps m s = .next v ∧ v.halted = false) ∧
      ∀ budget, 6 * k + 4 ≤ budget → run budget s = .next u

/-- Reset makes every register and flag zero or false and the phase 0, leaves memory, is
idempotent, and changes nothing after PowerOn. -/
def Obligations.ResetClearsAllButMemory : Prop :=
  (∀ s : State,
    resetOp s = {
      a := 0, b := 0, pc := 0, mar := 0, ir := 0, out := 0, z := false, c := false,
      halted := false, clockCycle := .addressSetup, memory := s.memory } ∧
    (∀ addr, memRead (resetOp s) addr = memRead s addr) ∧ resetOp (resetOp s) = resetOp s) ∧
  resetOp powerOn = powerOn

/-- PowerOn, and State.reset, leave every register 0, every flag false, phase 0 and every cell
0x00 (that PowerOn is construction is decision D3, log entry 1). -/
def Obligations.PowerOnLeavesEveryFieldZero : Prop :=
  powerOn = State.reset ∧ State.reset.a = 0 ∧ State.reset.b = 0 ∧ State.reset.pc = 0 ∧
    State.reset.mar = 0 ∧ State.reset.ir = 0 ∧ State.reset.out = 0 ∧ State.reset.z = false ∧
    State.reset.c = false ∧ State.reset.halted = false ∧ phaseNumber State.reset.clockCycle = 0 ∧
    ∀ addr, memRead State.reset addr = 0x00

/-- LoadProgram writes byte i to cell i for i below 16 and the image's length, and nothing else
(in any state: decision D5, log entry 9). -/
def Obligations.LoadProgramWritesFirstSixteenBytes : Prop :=
  ∀ (bytes : Image) (s : State),
    loadProgram bytes s = { s with memory := (loadProgram bytes s).memory } ∧
    (∀ i : Nat, i < 16 → memRead (loadProgram bytes s) i = bytes.getD i (memRead s i)) ∧
    loadProgram bytes s = loadProgram (bytes.take 16) s

/-- Reset and LoadProgram give the same state in either order. -/
def Obligations.ResetAndLoadProgramCommute : Prop :=
  ∀ (bytes : Image) (s : State), resetOp (loadProgram bytes s) = loadProgram bytes (resetOp s)

/-- A booted machine is at the start of a cycle, holds the image over zeros, and its first three
Steps fetch cell 0. The zeros are the inferred decision D3 (log entry 1). -/
def Obligations.BootedMachineStartsAtCellZero : Prop :=
  ∀ image : Image,
    AtBoundary (boot image) ∧ (∀ i : Nat, i < 16 → memRead (boot image) i = image.getD i 0x00) ∧
    ∃ t, steps 3 (boot image) = .next t ∧ t.mar = 0 ∧ t.pc = 1 ∧ t.ir = image.getD 0 0x00 ∧
      t.a = 0 ∧ t.z = false ∧ t.c = false ∧ t.clockCycle = .execute3

/-- Run with budget 0 does nothing, and Run(a); Run(b) leaves the state of Run(a + b) (decision
D6, log entry 8). -/
def Obligations.RunComposesAndZeroBudgetDoesNothing : Prop :=
  ∀ (m n : Nat) (s : State),
    run 0 s = .next s ∧ ∃ t, run m s = .next t ∧ run (m + n) s = run n t

/-- 70_reset_and_hazards section 2: Run(n) is k Steps for a k at most n, less than n only if the
machine is then halted. That no Step is taken from a halted state, the first included (k = 0
on an already halted machine), is the inferred decision D6 (log entry 8, DEDUCED), not the
source's words. -/
def Obligations.RunPerformsStepsUntilHaltOrBudget : Prop :=
  ∀ (n : Nat) (s : State), ∃ k t, k ≤ n ∧ run n s = .next t ∧ steps k s = .next t ∧
    (k < n → t.halted = true) ∧ ∀ j, j < k → ∃ u, steps j s = .next u ∧ u.halted = false

/-- MemRead after MemWrite gives the byte written at that cell and the old byte at every other;
addresses wrap modulo 16 (R52). -/
def Obligations.MemReadReturnsLatestMemWrite : Prop :=
  ∀ (s : State) (addr other : Nat) (v : Byte),
    (addr % 16 = other % 16 → memRead (memWrite s addr v) other = v) ∧
    (addr % 16 ≠ other % 16 → memRead (memWrite s addr v) other = memRead s other) ∧
    memWrite s addr v = { s with memory := (memWrite s addr v).memory } ∧
    memRead s addr = memRead s (addr % 16) ∧ memWrite s addr v = memWrite s (addr % 16) v

/-- 10_state R20 and R33: the record is the entire machine state; equal memories are equal data
(log entry 7). The canonical form is the representation of memory that the model chose (DESIGN
CHOICE). The cells are read as decision D17 says (log entry 16). -/
def Obligations.SnapshotAndCellsDetermineTheState : Prop :=
  ∀ s t : State, s.memory.wf = true → t.memory.wf = true → snapshot s = snapshot t →
    memoryCells s = memoryCells t → s = t

/-- PowerOn, Reset, LoadProgram, Step, Run and Snapshot keep the canonical form of the memory. The
form is the model's own representation (log entry 7, DESIGN CHOICE) and no rule of the spec:
the sections cited give the 16 cells that it represents (10_state section 7) and the list of
operations (70_reset_and_hazards section 2). -/
def Obligations.EveryHostOperationKeepsMemoryCanonical : Prop :=
  ∀ (op : HostOp) (s : State), s.memory.wf = true →
    ∃ t, applyOp op s = .next t ∧ t.memory.wf = true

/-- Every Step keeps the controller's invariant: in each phase the registers hold what the earlier
phases of the same cycle left. The LDI clause rests on the inferred decision D7 (log entry 4),
and the conjunct of canonical memory on the representation of memory that the model chose (log
entry 7, DESIGN CHOICE). -/
def Obligations.EveryStepKeepsTheControllerInvariant : Prop :=
  ∀ s t : State, ControllerInv s → step s = .next t → ControllerInv t

/-- The controller's invariant holds at State.reset and after Reset of any state with canonical
memory (the model's form, log entry 7). The canonical form, premise and conjunct, is the
representation of memory that the model chose (log entry 7, DESIGN CHOICE). -/
def Obligations.ControllerInvariantHoldsAtReset : Prop :=
  ControllerInv State.reset ∧ ∀ s : State, s.memory.wf = true → ControllerInv (resetOp s)
end

