-- ==== Sys2Proof/Laws/Arithmetic.lean ====
section
/-!
SUPPORT. The arithmetic unit in terms of 8-bit words: the exact computation of Flags.lean, narrowed,
is the word operation, and Z of a difference is equality.
-/

namespace Sys2Proof.Machine

/-- The sum of R120 is addition of 8-bit words. -/
theorem sumByte_eq (x y : Byte) : sumByte x y = x + y := by
  apply BitVec.eq_of_toNat_eq
  simp [sumByte, exactSum, BitVec.toNat_add]

/-- The difference of R121 is subtraction of 8-bit words. -/
theorem differenceByte_eq (x y : Byte) : differenceByte x y = x - y := by
  apply BitVec.eq_of_toNat_eq
  have hx := x.isLt
  have hy := y.isLt
  simp only [differenceByte, exactDifference, BitVec.toNat_ofNat, BitVec.toNat_sub]
  omega

theorem isZero_eq (v : Byte) : isZero v = decide (v = 0) := by
  simp [isZero]; rfl

/-- Z after SUB is true exactly when the operands were equal. -/
theorem isZero_differenceByte (x y : Byte) : isZero (differenceByte x y) = decide (x = y) := by
  rw [isZero_eq, differenceByte_eq]
  congr 1
  simp only [eq_iff_iff]
  constructor
  · intro h
    have h' : x - y + y = 0#8 + y := by rw [h]; rfl
    simpa using h'
  · rintro rfl
    simp

end Sys2Proof.Machine
end

