-- ==== Sys2Proof/Laws/State.lean ====
section
/-!
SUPPORT. One lemma per field per update of the state, so that no proof unfolds a record update.
-/

namespace Sys2Proof.Machine

variable (s : State)

@[simp] theorem State.setA_a (v : Byte) : (s.setA v).a = v := rfl
@[simp] theorem State.setA_b (v : Byte) : (s.setA v).b = s.b := rfl
@[simp] theorem State.setA_pc (v : Byte) : (s.setA v).pc = s.pc := rfl
@[simp] theorem State.setA_mar (v : Byte) : (s.setA v).mar = s.mar := rfl
@[simp] theorem State.setA_ir (v : Byte) : (s.setA v).ir = s.ir := rfl
@[simp] theorem State.setA_out (v : Byte) : (s.setA v).out = s.out := rfl
@[simp] theorem State.setA_z (v : Byte) : (s.setA v).z = s.z := rfl
@[simp] theorem State.setA_c (v : Byte) : (s.setA v).c = s.c := rfl
@[simp] theorem State.setA_halted (v : Byte) : (s.setA v).halted = s.halted := rfl
@[simp] theorem State.setA_clockCycle (v : Byte) : (s.setA v).clockCycle = s.clockCycle := rfl
@[simp] theorem State.setA_memory (v : Byte) : (s.setA v).memory = s.memory := rfl

@[simp] theorem State.setB_a (v : Byte) : (s.setB v).a = s.a := rfl
@[simp] theorem State.setB_b (v : Byte) : (s.setB v).b = v := rfl
@[simp] theorem State.setB_pc (v : Byte) : (s.setB v).pc = s.pc := rfl
@[simp] theorem State.setB_mar (v : Byte) : (s.setB v).mar = s.mar := rfl
@[simp] theorem State.setB_ir (v : Byte) : (s.setB v).ir = s.ir := rfl
@[simp] theorem State.setB_out (v : Byte) : (s.setB v).out = s.out := rfl
@[simp] theorem State.setB_z (v : Byte) : (s.setB v).z = s.z := rfl
@[simp] theorem State.setB_c (v : Byte) : (s.setB v).c = s.c := rfl
@[simp] theorem State.setB_halted (v : Byte) : (s.setB v).halted = s.halted := rfl
@[simp] theorem State.setB_clockCycle (v : Byte) : (s.setB v).clockCycle = s.clockCycle := rfl
@[simp] theorem State.setB_memory (v : Byte) : (s.setB v).memory = s.memory := rfl

@[simp] theorem State.setPc_a (v : Addr) : (s.setPc v).a = s.a := rfl
@[simp] theorem State.setPc_b (v : Addr) : (s.setPc v).b = s.b := rfl
@[simp] theorem State.setPc_pc (v : Addr) : (s.setPc v).pc = v := rfl
@[simp] theorem State.setPc_mar (v : Addr) : (s.setPc v).mar = s.mar := rfl
@[simp] theorem State.setPc_ir (v : Addr) : (s.setPc v).ir = s.ir := rfl
@[simp] theorem State.setPc_out (v : Addr) : (s.setPc v).out = s.out := rfl
@[simp] theorem State.setPc_z (v : Addr) : (s.setPc v).z = s.z := rfl
@[simp] theorem State.setPc_c (v : Addr) : (s.setPc v).c = s.c := rfl
@[simp] theorem State.setPc_halted (v : Addr) : (s.setPc v).halted = s.halted := rfl
@[simp] theorem State.setPc_clockCycle (v : Addr) : (s.setPc v).clockCycle = s.clockCycle := rfl
@[simp] theorem State.setPc_memory (v : Addr) : (s.setPc v).memory = s.memory := rfl

@[simp] theorem State.setMar_a (v : Addr) : (s.setMar v).a = s.a := rfl
@[simp] theorem State.setMar_b (v : Addr) : (s.setMar v).b = s.b := rfl
@[simp] theorem State.setMar_pc (v : Addr) : (s.setMar v).pc = s.pc := rfl
@[simp] theorem State.setMar_mar (v : Addr) : (s.setMar v).mar = v := rfl
@[simp] theorem State.setMar_ir (v : Addr) : (s.setMar v).ir = s.ir := rfl
@[simp] theorem State.setMar_out (v : Addr) : (s.setMar v).out = s.out := rfl
@[simp] theorem State.setMar_z (v : Addr) : (s.setMar v).z = s.z := rfl
@[simp] theorem State.setMar_c (v : Addr) : (s.setMar v).c = s.c := rfl
@[simp] theorem State.setMar_halted (v : Addr) : (s.setMar v).halted = s.halted := rfl
@[simp] theorem State.setMar_clockCycle (v : Addr) : (s.setMar v).clockCycle = s.clockCycle := rfl
@[simp] theorem State.setMar_memory (v : Addr) : (s.setMar v).memory = s.memory := rfl

@[simp] theorem State.setIr_a (v : Byte) : (s.setIr v).a = s.a := rfl
@[simp] theorem State.setIr_b (v : Byte) : (s.setIr v).b = s.b := rfl
@[simp] theorem State.setIr_pc (v : Byte) : (s.setIr v).pc = s.pc := rfl
@[simp] theorem State.setIr_mar (v : Byte) : (s.setIr v).mar = s.mar := rfl
@[simp] theorem State.setIr_ir (v : Byte) : (s.setIr v).ir = v := rfl
@[simp] theorem State.setIr_out (v : Byte) : (s.setIr v).out = s.out := rfl
@[simp] theorem State.setIr_z (v : Byte) : (s.setIr v).z = s.z := rfl
@[simp] theorem State.setIr_c (v : Byte) : (s.setIr v).c = s.c := rfl
@[simp] theorem State.setIr_halted (v : Byte) : (s.setIr v).halted = s.halted := rfl
@[simp] theorem State.setIr_clockCycle (v : Byte) : (s.setIr v).clockCycle = s.clockCycle := rfl
@[simp] theorem State.setIr_memory (v : Byte) : (s.setIr v).memory = s.memory := rfl

@[simp] theorem State.setOut_a (v : Byte) : (s.setOut v).a = s.a := rfl
@[simp] theorem State.setOut_b (v : Byte) : (s.setOut v).b = s.b := rfl
@[simp] theorem State.setOut_pc (v : Byte) : (s.setOut v).pc = s.pc := rfl
@[simp] theorem State.setOut_mar (v : Byte) : (s.setOut v).mar = s.mar := rfl
@[simp] theorem State.setOut_ir (v : Byte) : (s.setOut v).ir = s.ir := rfl
@[simp] theorem State.setOut_out (v : Byte) : (s.setOut v).out = v := rfl
@[simp] theorem State.setOut_z (v : Byte) : (s.setOut v).z = s.z := rfl
@[simp] theorem State.setOut_c (v : Byte) : (s.setOut v).c = s.c := rfl
@[simp] theorem State.setOut_halted (v : Byte) : (s.setOut v).halted = s.halted := rfl
@[simp] theorem State.setOut_clockCycle (v : Byte) : (s.setOut v).clockCycle = s.clockCycle := rfl
@[simp] theorem State.setOut_memory (v : Byte) : (s.setOut v).memory = s.memory := rfl

@[simp] theorem State.setZ_a (v : Bool) : (s.setZ v).a = s.a := rfl
@[simp] theorem State.setZ_b (v : Bool) : (s.setZ v).b = s.b := rfl
@[simp] theorem State.setZ_pc (v : Bool) : (s.setZ v).pc = s.pc := rfl
@[simp] theorem State.setZ_mar (v : Bool) : (s.setZ v).mar = s.mar := rfl
@[simp] theorem State.setZ_ir (v : Bool) : (s.setZ v).ir = s.ir := rfl
@[simp] theorem State.setZ_out (v : Bool) : (s.setZ v).out = s.out := rfl
@[simp] theorem State.setZ_z (v : Bool) : (s.setZ v).z = v := rfl
@[simp] theorem State.setZ_c (v : Bool) : (s.setZ v).c = s.c := rfl
@[simp] theorem State.setZ_halted (v : Bool) : (s.setZ v).halted = s.halted := rfl
@[simp] theorem State.setZ_clockCycle (v : Bool) : (s.setZ v).clockCycle = s.clockCycle := rfl
@[simp] theorem State.setZ_memory (v : Bool) : (s.setZ v).memory = s.memory := rfl

@[simp] theorem State.setC_a (v : Bool) : (s.setC v).a = s.a := rfl
@[simp] theorem State.setC_b (v : Bool) : (s.setC v).b = s.b := rfl
@[simp] theorem State.setC_pc (v : Bool) : (s.setC v).pc = s.pc := rfl
@[simp] theorem State.setC_mar (v : Bool) : (s.setC v).mar = s.mar := rfl
@[simp] theorem State.setC_ir (v : Bool) : (s.setC v).ir = s.ir := rfl
@[simp] theorem State.setC_out (v : Bool) : (s.setC v).out = s.out := rfl
@[simp] theorem State.setC_z (v : Bool) : (s.setC v).z = s.z := rfl
@[simp] theorem State.setC_c (v : Bool) : (s.setC v).c = v := rfl
@[simp] theorem State.setC_halted (v : Bool) : (s.setC v).halted = s.halted := rfl
@[simp] theorem State.setC_clockCycle (v : Bool) : (s.setC v).clockCycle = s.clockCycle := rfl
@[simp] theorem State.setC_memory (v : Bool) : (s.setC v).memory = s.memory := rfl

@[simp] theorem State.setHalted_a (v : Bool) : (s.setHalted v).a = s.a := rfl
@[simp] theorem State.setHalted_b (v : Bool) : (s.setHalted v).b = s.b := rfl
@[simp] theorem State.setHalted_pc (v : Bool) : (s.setHalted v).pc = s.pc := rfl
@[simp] theorem State.setHalted_mar (v : Bool) : (s.setHalted v).mar = s.mar := rfl
@[simp] theorem State.setHalted_ir (v : Bool) : (s.setHalted v).ir = s.ir := rfl
@[simp] theorem State.setHalted_out (v : Bool) : (s.setHalted v).out = s.out := rfl
@[simp] theorem State.setHalted_z (v : Bool) : (s.setHalted v).z = s.z := rfl
@[simp] theorem State.setHalted_c (v : Bool) : (s.setHalted v).c = s.c := rfl
@[simp] theorem State.setHalted_halted (v : Bool) : (s.setHalted v).halted = v := rfl
@[simp] theorem State.setHalted_clockCycle (v : Bool) : (s.setHalted v).clockCycle = s.clockCycle := rfl
@[simp] theorem State.setHalted_memory (v : Bool) : (s.setHalted v).memory = s.memory := rfl

@[simp] theorem State.setClock_a (v : Phase) : (s.setClock v).a = s.a := rfl
@[simp] theorem State.setClock_b (v : Phase) : (s.setClock v).b = s.b := rfl
@[simp] theorem State.setClock_pc (v : Phase) : (s.setClock v).pc = s.pc := rfl
@[simp] theorem State.setClock_mar (v : Phase) : (s.setClock v).mar = s.mar := rfl
@[simp] theorem State.setClock_ir (v : Phase) : (s.setClock v).ir = s.ir := rfl
@[simp] theorem State.setClock_out (v : Phase) : (s.setClock v).out = s.out := rfl
@[simp] theorem State.setClock_z (v : Phase) : (s.setClock v).z = s.z := rfl
@[simp] theorem State.setClock_c (v : Phase) : (s.setClock v).c = s.c := rfl
@[simp] theorem State.setClock_halted (v : Phase) : (s.setClock v).halted = s.halted := rfl
@[simp] theorem State.setClock_clockCycle (v : Phase) : (s.setClock v).clockCycle = v := rfl
@[simp] theorem State.setClock_memory (v : Phase) : (s.setClock v).memory = s.memory := rfl

@[simp] theorem State.setMemory_a (v : Memory) : (s.setMemory v).a = s.a := rfl
@[simp] theorem State.setMemory_b (v : Memory) : (s.setMemory v).b = s.b := rfl
@[simp] theorem State.setMemory_pc (v : Memory) : (s.setMemory v).pc = s.pc := rfl
@[simp] theorem State.setMemory_mar (v : Memory) : (s.setMemory v).mar = s.mar := rfl
@[simp] theorem State.setMemory_ir (v : Memory) : (s.setMemory v).ir = s.ir := rfl
@[simp] theorem State.setMemory_out (v : Memory) : (s.setMemory v).out = s.out := rfl
@[simp] theorem State.setMemory_z (v : Memory) : (s.setMemory v).z = s.z := rfl
@[simp] theorem State.setMemory_c (v : Memory) : (s.setMemory v).c = s.c := rfl
@[simp] theorem State.setMemory_halted (v : Memory) : (s.setMemory v).halted = s.halted := rfl
@[simp] theorem State.setMemory_clockCycle (v : Memory) : (s.setMemory v).clockCycle = s.clockCycle := rfl
@[simp] theorem State.setMemory_memory (v : Memory) : (s.setMemory v).memory = v := rfl

/-! ### The updates built from them -/

@[simp] theorem memWrite_a (addr : Nat) (v : Byte) : (memWrite s addr v).a = s.a := rfl
@[simp] theorem memWrite_b (addr : Nat) (v : Byte) : (memWrite s addr v).b = s.b := rfl
@[simp] theorem memWrite_pc (addr : Nat) (v : Byte) : (memWrite s addr v).pc = s.pc := rfl
@[simp] theorem memWrite_mar (addr : Nat) (v : Byte) : (memWrite s addr v).mar = s.mar := rfl
@[simp] theorem memWrite_ir (addr : Nat) (v : Byte) : (memWrite s addr v).ir = s.ir := rfl
@[simp] theorem memWrite_out (addr : Nat) (v : Byte) : (memWrite s addr v).out = s.out := rfl
@[simp] theorem memWrite_z (addr : Nat) (v : Byte) : (memWrite s addr v).z = s.z := rfl
@[simp] theorem memWrite_c (addr : Nat) (v : Byte) : (memWrite s addr v).c = s.c := rfl
@[simp] theorem memWrite_halted (addr : Nat) (v : Byte) : (memWrite s addr v).halted = s.halted := rfl
@[simp] theorem memWrite_clockCycle (addr : Nat) (v : Byte) : (memWrite s addr v).clockCycle = s.clockCycle := rfl

@[simp] theorem updateZ_a : (updateZ s).a = s.a := rfl
@[simp] theorem updateZ_b : (updateZ s).b = s.b := rfl
@[simp] theorem updateZ_pc : (updateZ s).pc = s.pc := rfl
@[simp] theorem updateZ_mar : (updateZ s).mar = s.mar := rfl
@[simp] theorem updateZ_ir : (updateZ s).ir = s.ir := rfl
@[simp] theorem updateZ_out : (updateZ s).out = s.out := rfl
@[simp] theorem updateZ_z : (updateZ s).z = isZero s.a := rfl
@[simp] theorem updateZ_c : (updateZ s).c = s.c := rfl
@[simp] theorem updateZ_halted : (updateZ s).halted = s.halted := rfl
@[simp] theorem updateZ_clockCycle : (updateZ s).clockCycle = s.clockCycle := rfl
@[simp] theorem updateZ_memory : (updateZ s).memory = s.memory := rfl

@[simp] theorem writeA_a (v : Byte) : (writeA v s).a = v := rfl
@[simp] theorem writeA_b (v : Byte) : (writeA v s).b = s.b := rfl
@[simp] theorem writeA_pc (v : Byte) : (writeA v s).pc = s.pc := rfl
@[simp] theorem writeA_mar (v : Byte) : (writeA v s).mar = s.mar := rfl
@[simp] theorem writeA_ir (v : Byte) : (writeA v s).ir = s.ir := rfl
@[simp] theorem writeA_out (v : Byte) : (writeA v s).out = s.out := rfl
@[simp] theorem writeA_z (v : Byte) : (writeA v s).z = isZero v := rfl
@[simp] theorem writeA_c (v : Byte) : (writeA v s).c = s.c := rfl
@[simp] theorem writeA_halted (v : Byte) : (writeA v s).halted = s.halted := rfl
@[simp] theorem writeA_clockCycle (v : Byte) : (writeA v s).clockCycle = s.clockCycle := rfl
@[simp] theorem writeA_memory (v : Byte) : (writeA v s).memory = s.memory := rfl

@[simp] theorem advanceClock_a : (advanceClock s).a = s.a := rfl
@[simp] theorem advanceClock_b : (advanceClock s).b = s.b := rfl
@[simp] theorem advanceClock_pc : (advanceClock s).pc = s.pc := rfl
@[simp] theorem advanceClock_mar : (advanceClock s).mar = s.mar := rfl
@[simp] theorem advanceClock_ir : (advanceClock s).ir = s.ir := rfl
@[simp] theorem advanceClock_out : (advanceClock s).out = s.out := rfl
@[simp] theorem advanceClock_z : (advanceClock s).z = s.z := rfl
@[simp] theorem advanceClock_c : (advanceClock s).c = s.c := rfl
@[simp] theorem advanceClock_halted : (advanceClock s).halted = s.halted := rfl
@[simp] theorem advanceClock_clockCycle : (advanceClock s).clockCycle = nextPhase s.clockCycle := rfl
@[simp] theorem advanceClock_memory : (advanceClock s).memory = s.memory := rfl

/-- Two states with the same fields are the same state. -/
theorem State.ext_fields {s t : State} (ha : s.a = t.a) (hb : s.b = t.b) (hpc : s.pc = t.pc)
    (hmar : s.mar = t.mar) (hir : s.ir = t.ir) (hout : s.out = t.out) (hz : s.z = t.z)
    (hc : s.c = t.c) (hh : s.halted = t.halted) (hk : s.clockCycle = t.clockCycle)
    (hm : s.memory = t.memory) : s = t := by
  cases s; cases t; simp_all

end Sys2Proof.Machine
end

