-- ==== Sys2Proof/Laws/Cells.lean ====
section
/-!
SUPPORT. What the shared operations of the execute phases do: a row of the dispatch table, the fetch,
and the link between the host's run of the core and the Steps of Safety.lean.
-/

namespace Sys2Proof.Machine

/-- The state that a row of the dispatch table leaves, chosen by the phase. -/
def cellState (ph3 ph4 ph5 : State → State) (s : State) : State :=
  match s.clockCycle with
  | .execute3 => ph3 s
  | .execute4 => ph4 s
  | .execute5 => ph5 s
  | .addressSetup | .pcIncrement | .fetch => s

/-- A row of the dispatch table always answers a next state, and this one. -/
theorem executeCells_eq (ph3 ph4 ph5 : State → State) (s : State) :
    executeCells ph3 ph4 ph5 s = .next (cellState ph3 ph4 ph5 s) := by
  unfold executeCells cellState idle
  cases s.clockCycle <;> rfl

/-- If a row answers `t`, then `t` is one of its cells' states, or nothing has changed. -/
theorem executeCells_cases {ph3 ph4 ph5 : State → State} {s t : State}
    (h : executeCells ph3 ph4 ph5 s = .next t) :
    (s.clockCycle = .execute3 ∧ t = ph3 s) ∨ (s.clockCycle = .execute4 ∧ t = ph4 s) ∨
      (s.clockCycle = .execute5 ∧ t = ph5 s) ∨ t = s := by
  rw [executeCells_eq] at h
  cases h
  unfold cellState
  cases s.clockCycle <;> simp

/-- Everything a conditional jump does. -/
theorem jumpIf_eq (taken : Bool) (operand : Nibble) (s : State) :
    jumpIf taken operand s = { s with pc := if taken then operand else s.pc } := by
  cases taken <;> rfl

/-- The increment of PC is the increment of a 4-bit word. -/
theorem pcIncrement_eq (s : State) : pcIncrement s = s.setPc (s.pc + 1) := by
  unfold pcIncrement
  congr 1
  apply BitVec.eq_of_toNat_eq
  simp [BitVec.toNat_add]

/-! ### One equation for each shared operation -/

theorem addressSetup_eq (s : State) : addressSetup s = { s with mar := s.pc } := rfl

theorem fetchWord_eq (s : State) : fetchWord s = { s with ir := memRead s s.mar.toNat } := rfl

theorem latchAddress_eq (operand : Nibble) (s : State) :
    latchAddress operand s = { s with mar := operand } := rfl

theorem loadB_eq (s : State) : loadB s = { s with b := memRead s s.mar.toNat } := rfl

theorem writeA_eq (v : Byte) (s : State) : writeA v s = { s with a := v, z := isZero v } := rfl

theorem addPhase5_eq (s : State) :
    addPhase5 s = { s with
      a := sumByte s.a s.b
      c := carryOut s.a s.b
      z := isZero (sumByte s.a s.b) } := rfl

theorem subPhase5_eq (s : State) :
    subPhase5 s = { s with
      a := differenceByte s.a s.b
      c := borrowOut s.a s.b
      z := isZero (differenceByte s.a s.b) } := rfl

/-- The halt gate lets no phase body through. -/
theorem gatedBody_halted {s : State} (h : s.halted = true) : gatedBody s = .next s := by
  simp [gatedBody, h]

/-- A running machine performs the phase body. -/
theorem gatedBody_running {s : State} (h : s.halted = false) : gatedBody s = phaseBody s := by
  simp [gatedBody, h]

/-- If the advance answers `t`, then the body has answered a state and `t` is it, advanced. -/
theorem thenAdvance_next {o : Host.Outcome State Fault Refusal} {t : State}
    (h : thenAdvance o = .next t) : ∃ s, o = .next s ∧ t = advanceClock s := by
  cases o with
  | next s => exact ⟨s, rfl, by cases h; rfl⟩
  | fault r => cases h
  | refused r => cases h

/-- A 4-bit address is its own remainder modulo 16. -/
@[simp] theorem addr_mod (x : Addr) : x.toNat % 16 = x.toNat := Nat.mod_eq_of_lt x.isLt

/-- A cell number reads the same when reduced modulo 16. -/
theorem memRead_mod (s : State) (addr : Nat) : memRead s (addr % 16) = memRead s addr := by
  simp [memRead]

/-- The placed state of `withFetchWord` is the state after the word is stored in the cell at PC and
the fetch phases are done for it. -/
theorem fetched_eq (s : State) (w : Byte) :
    fetched s w =
      { memWrite s s.pc.toNat w with
        mar := s.pc
        pc := s.pc + 1
        ir := memRead (memWrite s s.pc.toNat w) s.pc.toNat
        halted := false
        clockCycle := .execute3 } := by
  have h := pcIncrement_eq (addressSetup (memWrite s s.pc.toNat w))
  unfold fetched
  rw [h]
  rfl

/-- The placed state is the one three Steps reach from the start of a cycle with the word in the cell
at PC (log entry 3). -/
theorem steps_three_eq_fetched {s : State} (w : Byte) (h : AtBoundary s) :
    steps 3 (memWrite s s.pc.toNat w) = .next (fetched s w) := by
  obtain ⟨h1, h2⟩ := h
  rcases s with ⟨a, b, pc, mar, ir, out, z, c, halted, clockCycle, memory⟩
  simp only at h1 h2
  subst h1 h2
  rfl

/-- The host's run of the core is the model's Steps. -/
theorem core_run_eq_steps (n : Nat) (s : State) : Host.Core.run Sys2Proof.core n s = steps n s := by
  induction n generalizing s with
  | zero => rfl
  | succ n ih =>
    simp only [Host.Core.run, steps, show Sys2Proof.core.step s = step s from rfl]
    cases step s with
    | next t => exact ih t
    | fault r => rfl
    | refused r => rfl

end Sys2Proof.Machine
end

