-- ==== Sys2Proof/Laws/Decode.lean ====
section
/-!
SUPPORT. The two halves of a word: concatenation and splitting undo each other.
-/

namespace Sys2Proof

theorem highNibble_append (x y : Nibble) : highNibble (x ++ y) = x := by
  apply BitVec.eq_of_getLsbD_eq
  intro i hi
  have h := BitVec.getLsbD_append (x := x) (y := y) (i := 4 + i)
  simp only [show ¬ 4 + i < 4 by omega, if_false, Nat.add_sub_cancel_left] at h
  simpa [highNibble, hi] using h

theorem lowNibble_append (x y : Nibble) : lowNibble (x ++ y) = y := by
  apply BitVec.eq_of_getLsbD_eq
  intro i hi
  have h := BitVec.getLsbD_append (x := x) (y := y) (i := i)
  simp only [hi, if_true] at h
  simpa [lowNibble, hi] using h

/-- Splitting the word made of two nibbles gives the nibbles. -/
theorem fields_append (x y : Nibble) : fields (x ++ y) = (x, y) := by
  simp [fields, highNibble_append, lowNibble_append]

end Sys2Proof
end

