-- ==== Sys2Proof/Laws/Memory.lean ====
section
/-!
SUPPORT. The memory array: a read after a write, and that every memory operation keeps the canonical
form. The read laws hold of every list, canonical or not.
-/

namespace Sys2Proof.Machine

theorem Memory.read_erase_same (m : Memory) (addr : Nat) :
    (m.erase addr).read addr = unlistedByte := by
  induction m with
  | nil => rfl
  | cons e rest ih =>
    obtain ⟨b, v⟩ := e
    by_cases h : b = addr <;> simp [Memory.erase, Memory.read, h, ih]

theorem Memory.read_erase_other (m : Memory) {addr other : Nat} (h : other ≠ addr) :
    (m.erase addr).read other = m.read other := by
  induction m with
  | nil => rfl
  | cons e rest ih =>
    obtain ⟨b, v⟩ := e
    by_cases hb : b = addr
    · have : b ≠ other := fun h' => h (h'.symm.trans hb)
      simp [Memory.erase, Memory.read, hb, ih, h.symm]
    · simp [Memory.erase, Memory.read, hb, ih]

theorem Memory.read_insert_other (m : Memory) {addr other : Nat} (v : Byte) (h : other ≠ addr) :
    (m.insert addr v).read other = m.read other := by
  induction m with
  | nil => simp [Memory.insert, Memory.read, h.symm]
  | cons e rest ih =>
    obtain ⟨b, w⟩ := e
    by_cases hb : addr < b
    · simp [Memory.insert, Memory.read, hb, h.symm]
    · simp [Memory.insert, Memory.read, hb, ih]

theorem Memory.read_insert_erase_same (m : Memory) (addr : Nat) (v : Byte) :
    ((m.erase addr).insert addr v).read addr = v := by
  induction m with
  | nil => simp [Memory.erase, Memory.insert, Memory.read]
  | cons e rest ih =>
    obtain ⟨b, w⟩ := e
    by_cases hb : b = addr
    · simpa [Memory.erase, hb] using ih
    · by_cases hlt : addr < b
      · simp [Memory.erase, Memory.insert, Memory.read, hb, hlt]
      · simpa [Memory.erase, Memory.insert, Memory.read, hb, hlt] using ih

/-- Everything a write does to the reads of the array. -/
theorem Memory.read_write (m : Memory) (addr other : Nat) (v : Byte) :
    (m.write addr v).read other = if other = addr then v else m.read other := by
  by_cases hv : v = unlistedByte
  · by_cases h : other = addr
    · subst h; simp [Memory.write, hv, Memory.read_erase_same]
    · simp [Memory.write, hv, h, Memory.read_erase_other m h]
  · by_cases h : other = addr
    · subst h; simp [Memory.write, hv, Memory.read_insert_erase_same]
    · simp [Memory.write, hv, h, Memory.read_insert_other _ v h, Memory.read_erase_other m h]

theorem Memory.risingFrom_mono {lo lo' : Nat} (h : lo' ≤ lo) {m : Memory}
    (hm : Memory.risingFrom lo m = true) : Memory.risingFrom lo' m = true := by
  cases m with
  | nil => rfl
  | cons e rest =>
    simp only [Memory.risingFrom, Bool.and_eq_true, decide_eq_true_eq] at hm ⊢
    exact ⟨⟨⟨h.trans hm.1.1.1, hm.1.1.2⟩, hm.1.2⟩, hm.2⟩

theorem Memory.risingFrom_erase {lo : Nat} {m : Memory} (addr : Nat)
    (hm : Memory.risingFrom lo m = true) : Memory.risingFrom lo (m.erase addr) = true := by
  induction m generalizing lo with
  | nil => rfl
  | cons e rest ih =>
    obtain ⟨b, v⟩ := e
    simp only [Memory.risingFrom, Bool.and_eq_true, decide_eq_true_eq] at hm
    by_cases hb : b = addr
    · simp only [Memory.erase, hb, if_true]
      exact Memory.risingFrom_mono (by omega) (ih hm.2)
    · simp only [Memory.erase, hb, if_false, Memory.risingFrom, Bool.and_eq_true,
        decide_eq_true_eq]
      exact ⟨hm.1, ih hm.2⟩

theorem Memory.risingFrom_insert {lo addr : Nat} {m : Memory} {v : Byte} (hlo : lo ≤ addr)
    (ha : addr < Config.memoryCells) (hv : v ≠ unlistedByte)
    (hm : Memory.risingFrom lo (m.erase addr) = true) :
    Memory.risingFrom lo ((m.erase addr).insert addr v) = true := by
  induction m generalizing lo with
  | nil => simp [Memory.erase, Memory.insert, Memory.risingFrom, hlo, ha, hv]
  | cons e rest ih =>
    obtain ⟨b, w⟩ := e
    by_cases hb : b = addr
    · simp only [Memory.erase, hb, if_true] at hm ⊢
      exact ih hlo hm
    · simp only [Memory.erase, hb, if_false, Memory.risingFrom, Bool.and_eq_true,
        decide_eq_true_eq] at hm ⊢
      by_cases hlt : addr < b
      · simp only [Memory.insert, hlt, if_true, Memory.risingFrom, Bool.and_eq_true,
          decide_eq_true_eq]
        exact ⟨⟨⟨hlo, ha⟩, hv⟩, ⟨⟨by omega, hm.1.1.2⟩, hm.1.2⟩, hm.2⟩
      · simp only [Memory.insert, hlt, if_false, Memory.risingFrom, Bool.and_eq_true,
          decide_eq_true_eq]
        exact ⟨hm.1, ih (by omega) hm.2⟩

/-- Every write to an existing cell keeps the canonical form. -/
theorem Memory.wf_write {m : Memory} {addr : Nat} {v : Byte} (ha : addr < Config.memoryCells)
    (hm : m.wf = true) : (m.write addr v).wf = true := by
  have he := Memory.risingFrom_erase addr hm
  by_cases hv : v = unlistedByte
  · simpa [Memory.write, hv, Memory.wf] using he
  · simpa [Memory.write, hv, Memory.wf] using Memory.risingFrom_insert (Nat.zero_le _) ha hv he

/-- MemWrite keeps the canonical form, at every address. -/
theorem memWrite_wf {s : State} (addr : Nat) (v : Byte) (hs : s.memory.wf = true) :
    (memWrite s addr v).memory.wf = true :=
  Memory.wf_write (Nat.mod_lt _ (by decide)) hs

/-- LoadProgram keeps the canonical form. -/
theorem loadFrom_wf {s : State} (i : Nat) (bytes : Image) (hs : s.memory.wf = true) :
    (loadFrom i bytes s).memory.wf = true := by
  induction bytes generalizing i s with
  | nil => exact hs
  | cons v rest ih =>
    by_cases hi : i < Config.memoryCells
    · simpa [loadFrom, hi] using ih (i + 1) (memWrite_wf i v hs)
    · simpa [loadFrom, hi] using hs

theorem reset_memory_wf : State.reset.memory.wf = true := rfl

/-- A read depends on the memory alone. -/
theorem memRead_congr {s t : State} (h : s.memory = t.memory) (addr : Nat) :
    memRead s addr = memRead t addr := by
  simp [memRead, h]

end Sys2Proof.Machine
end

