-- ==== Sys2Proof/Laws/PerInstr.lean ====
section
/-!
SUPPORT. Statements made per instruction, about instructions as syntax.
-/

namespace Sys2Proof.Laws

/-- The word of an instruction carries its opcode in bits 7:4 and its operand in bits 3:0
(30_encoding R71). -/
def EncodedFields.Statement (i : Instr) : Prop := fields (encode i) = (opcodeOf i, operandOf i)

theorem EncodedFields.lda (n : Nibble) : EncodedFields.Statement (.lda n) := fields_append _ _

theorem EncodedFields.add (n : Nibble) : EncodedFields.Statement (.add n) := fields_append _ _

theorem EncodedFields.sub (n : Nibble) : EncodedFields.Statement (.sub n) := fields_append _ _

theorem EncodedFields.sta (n : Nibble) : EncodedFields.Statement (.sta n) := fields_append _ _

theorem EncodedFields.ldi (n : Nibble) : EncodedFields.Statement (.ldi n) := fields_append _ _

theorem EncodedFields.jmp (n : Nibble) : EncodedFields.Statement (.jmp n) := fields_append _ _

theorem EncodedFields.jz (n : Nibble) : EncodedFields.Statement (.jz n) := fields_append _ _

theorem EncodedFields.jc (n : Nibble) : EncodedFields.Statement (.jc n) := fields_append _ _

theorem EncodedFields.out (n : Nibble) : EncodedFields.Statement (.out n) := fields_append _ _

theorem EncodedFields.hlt (n : Nibble) : EncodedFields.Statement (.hlt n) := fields_append _ _

theorem EncodedFields.rsvdA (n : Nibble) : EncodedFields.Statement (.rsvdA n) := fields_append _ _

theorem EncodedFields.rsvdB (n : Nibble) : EncodedFields.Statement (.rsvdB n) := fields_append _ _

theorem EncodedFields.rsvdC (n : Nibble) : EncodedFields.Statement (.rsvdC n) := fields_append _ _

theorem EncodedFields.rsvdD (n : Nibble) : EncodedFields.Statement (.rsvdD n) := fields_append _ _

theorem EncodedFields.rsvdE (n : Nibble) : EncodedFields.Statement (.rsvdE n) := fields_append _ _

theorem EncodedFields.rsvdF (n : Nibble) : EncodedFields.Statement (.rsvdF n) := fields_append _ _

end Sys2Proof.Laws
end

