-- ==== Sys2Proof/Tests/Slice0.lean ====
section
/-!
SUPPORT. The model's own tests: expected values are the spec's (30_encoding R74, 95_test_vectors), and
a witness for the hypotheses of each statement.
-/

namespace Sys2Proof.Tests

open Sys2Proof.Machine

/-- A running machine in phase `p` with word `w` in IR, fetched from cell 0: A = 250, B = 10,
MAR = 15, cell 15 holds 10 (the operands of S5). -/
def sample (w : Byte) (p : Phase) : State :=
  { State.reset with
    a := 0xFA
    b := 0x0A
    pc := 1
    mar := 15
    ir := w
    clockCycle := p
    memory := [(15, 0x0A)] }

/-- A running machine at the start of the cycle of the word `w` in cell 15: A = 3. -/
def start (w : Byte) : State :=
  { State.reset with a := 0x03, pc := 15, memory := (Memory.write [(4, 0x05)] 15 w) }

/-- A value of the next state, if there is one. -/
def view {α : Type} (o : Host.Outcome State Fault Refusal) (f : State → α) : Option α :=
  match o with
  | .next s => some (f s)
  | .fault _ => none
  | .refused _ => none

/-! ### Well-formedness: a term each check refuses -/

theorem test_noncanonical_out : canonical (.out 0xF) = false := by decide
theorem test_noncanonical_hlt : canonical (.hlt 0x1) = false := by decide
theorem test_noncanonical_reserved : canonical (.rsvdC 0x7) = false := by decide
theorem test_canonical_lda : canonical (.lda 0xF) = true := by decide
theorem test_long_image_does_not_fit : imageFits (List.replicate 17 0x00) = false := by decide

/-! ### Decoding: words written out bit by bit from R74 -/

theorem test_decode_lda : decode 0b00001111 = .lda 15 := by decide
theorem test_decode_add : decode 0b00011111 = .add 15 := by decide
theorem test_decode_sub : decode 0b00101110 = .sub 14 := by decide
theorem test_decode_sta : decode 0b00110001 = .sta 1 := by decide
theorem test_decode_ldi : decode 0b01000010 = .ldi 2 := by decide
theorem test_decode_jmp : decode 0b01010011 = .jmp 3 := by decide
theorem test_decode_jz : decode 0b01100100 = .jz 4 := by decide
theorem test_decode_jc : decode 0b01110101 = .jc 5 := by decide
theorem test_decode_out : decode 0b10000000 = .out 0 := by decide
theorem test_decode_hlt : decode 0b10010000 = .hlt 0 := by decide
theorem test_decode_rsvdA : decode 0b10100111 = .rsvdA 7 := by decide
theorem test_decode_rsvdB : decode 0b10110000 = .rsvdB 0 := by decide
theorem test_decode_rsvdC : decode 0b11001111 = .rsvdC 15 := by decide
theorem test_decode_rsvdD : decode 0b11010001 = .rsvdD 1 := by decide
theorem test_decode_rsvdE : decode 0b11100010 = .rsvdE 2 := by decide
theorem test_decode_rsvdF : decode 0b11110011 = .rsvdF 3 := by decide
theorem test_encode_ldi : encode (.ldi 2) = 0x42 := by decide
theorem test_table_word : decodeTableWord 8 0x1F = some (.add 15) := by decide
theorem test_table_word_of_other_width : decodeTableWord 16 0x1F = none := by decide

/-! ### One Step of each instruction -/

/-- V8: LDA of 0xFF sets Z false. -/
theorem test_lda_ff :
    view (step { sample 0x0F .execute4 with z := true, memory := [(15, 0xFF)] })
      (fun t => (t.a, t.z)) = some (0xFF, false) := by decide
/-- V7: LDA of 0x00 sets Z true. -/
theorem test_lda_zero :
    view (step { sample 0x0F .execute4 with memory := [] }) (fun t => (t.a, t.z)) =
      some (0x00, true) := by decide
/-- V14 and S5: 250 + 10. -/
theorem test_add_overflow :
    view (step (sample 0x1F .execute5)) (fun t => (t.a, t.c, t.z)) = some (4, true, false) := by
  decide
/-- V18: 128 + 128. -/
theorem test_add_wraps_to_zero :
    view (step { sample 0x1F .execute5 with a := 128, b := 128 }) (fun t => (t.a, t.c, t.z)) =
      some (0, true, true) := by decide
/-- V24 and S6: 3 - 5. -/
theorem test_sub_borrow :
    view (step { sample 0x2F .execute5 with a := 3, b := 5 }) (fun t => (t.a, t.c, t.z)) =
      some (254, true, false) := by decide
/-- V29: 255 - 0. -/
theorem test_sub_no_borrow :
    view (step { sample 0x2F .execute5 with a := 255, b := 0, c := true })
      (fun t => (t.a, t.c, t.z)) = some (255, false, false) := by decide
/-- V12: STA 15. -/
theorem test_sta_writes_cell :
    view (step { sample 0x3F .execute4 with a := 0x0A, z := true })
      (fun t => (memRead t 15, memRead t 14, t.z)) = some (0x0A, 0x00, true) := by decide
/-- A store of 0x00 takes the entry out: the canonical form is kept. -/
theorem test_sta_zero_is_unlisted :
    view (step { sample 0x3F .execute4 with a := 0 }) (fun t => t.memory) = some [] := by decide
/-- V10: LDI 15 is zero extended. -/
theorem test_ldi_zero_extends :
    view (step (sample 0x4F .execute3)) (fun t => (t.a, t.z)) = some (0x0F, false) := by decide
/-- V9: LDI 0. -/
theorem test_ldi_zero :
    view (step (sample 0x40 .execute3)) (fun t => (t.a, t.z)) = some (0x00, true) := by decide
/-- V36: JMP 3. -/
theorem test_jmp : view (step (sample 0x53 .execute3)) (fun t => t.pc) = some 3 := by decide
/-- V37: JZ 4 taken. -/
theorem test_jz_taken :
    view (step { sample 0x64 .execute3 with z := true }) (fun t => t.pc) = some 4 := by decide
/-- V39: JZ tests the flag, not A. -/
theorem test_jz_tests_the_flag :
    view (step { sample 0x63 .execute3 with a := 0 }) (fun t => t.pc) = some 1 := by decide
/-- V40: JC 5 taken. -/
theorem test_jc_taken :
    view (step { sample 0x75 .execute3 with c := true }) (fun t => t.pc) = some 5 := by decide
/-- V41: JC not taken. -/
theorem test_jc_not_taken :
    view (step (sample 0x75 .execute3)) (fun t => t.pc) = some 1 := by decide
/-- V43: the word 0x8F is OUT. -/
theorem test_out : view (step (sample 0x8F .execute3)) (fun t => t.out) = some 0xFA := by decide
/-- V43: the word 0x9F is HLT, and the Step that halts ends in phase 4. -/
theorem test_hlt :
    view (step (sample 0x9F .execute3)) (fun t => (t.halted, t.clockCycle)) =
      some (true, .execute4) := by decide
/-- V44: undefined opcodes change the phase alone. -/
theorem test_rsvdA : view (step (sample 0xA7 .execute3)) id = some (sample 0xA7 .execute4) := by
  decide
theorem test_rsvdB : view (step (sample 0xB0 .execute3)) id = some (sample 0xB0 .execute4) := by
  decide
theorem test_rsvdC : view (step (sample 0xCF .execute4)) id = some (sample 0xCF .execute5) := by
  decide
theorem test_rsvdD : view (step (sample 0xD1 .execute3)) id = some (sample 0xD1 .execute4) := by
  decide
theorem test_rsvdE : view (step (sample 0xE2 .execute4)) id = some (sample 0xE2 .execute5) := by
  decide
theorem test_rsvdF : view (step (sample 0xF3 .execute5)) id = some (sample 0xF3 .addressSetup) := by
  decide
/-- V53: PC goes 15 to 0 in phase 1. -/
theorem test_pc_wraps :
    view (step { sample 0x90 .pcIncrement with pc := 15 }) (fun t => t.pc) = some 0 := by decide
/-- V46: a halted Step goes through phase 2 without touching IR. -/
theorem test_halted_fetch :
    view (step { sample 0x90 .fetch with halted := true }) (fun t => (t.ir, t.clockCycle)) =
      some (0x90, .execute3) := by decide
/-- The next Step after `withFetchWord` runs the word: LDI 2. -/
theorem test_withFetchWord :
    view (step (State.reset.withFetchWord 8 0x42)) (fun t => (t.a, t.pc, t.mar)) =
      some (2, 1, 0) := by decide
/-- V50: an image of 18 bytes is truncated, with no wrap to cell 0. -/
theorem test_load_truncates :
    memoryCells (loadProgram ((List.range 18).map (fun i => BitVec.ofNat 8 (0x10 + i))) powerOn) =
      (List.range 16).map (fun i => BitVec.ofNat 8 (0x10 + i)) := by decide

/-! ### Witnesses: states and operands that meet the hypotheses of the statements -/

theorem witness_ignored_operand_out :
    Executing (sample 0x80 .execute3) ∧ (0x80#8).toNat / 16 = (0x8F#8).toNat / 16 ∧
      (0x80#8).toNat / 16 = 8 := by decide
theorem witness_ignored_operand_hlt :
    Executing (sample 0x90 .execute5) ∧ (0x90#8).toNat / 16 = (0x9F#8).toNat / 16 ∧
      (0x90#8).toNat / 16 = 9 := by decide
theorem witness_ignored_operand_undefined :
    Executing (sample 0xA0 .execute4) ∧ 10 ≤ (0xA0#8).toNat / 16 ∧ 10 ≤ (0xFF#8).toNat / 16 := by
  decide
theorem witness_opcode_of_ir_first_row : (sample 0x0F .execute3).ir &&& 0xF0#8 = 0x00#8 := by
  decide
theorem witness_opcode_of_ir_last_row : (sample 0xF0 .execute3).ir &&& 0xF0#8 = 0xF0#8 := by
  decide
/-- Each of the sixteen patterns of the opcode map is met by some IR. -/
theorem witness_opcode_of_ir_every_row :
    ∀ k : Fin 16, (sample (BitVec.ofNat 8 (16 * k.val)) .execute3).ir &&& 0xF0#8 =
      BitVec.ofNat 8 (16 * k.val) := by decide
theorem witness_halted_step : ({ sample 0x90 .fetch with halted := true }).halted = true := by
  decide
theorem witness_hlt_step :
    (sample 0x9F .execute3).halted = false ∧ (sample 0x9F .execute3).clockCycle = .execute3 ∧
      decode (sample 0x9F .execute3).ir = .hlt 0xF := by decide
theorem witness_address_setup :
    (sample 0x42 .addressSetup).halted = false ∧
      (sample 0x42 .addressSetup).clockCycle = .addressSetup := by decide
theorem witness_pc_increment_at_fifteen :
    ({ sample 0x42 .pcIncrement with pc := 15 }).halted = false ∧
      ({ sample 0x42 .pcIncrement with pc := 15 }).clockCycle = .pcIncrement ∧
      ({ sample 0x42 .pcIncrement with pc := 15 }).pc = 15 := by decide
theorem witness_fetch :
    (sample 0x42 .fetch).halted = false ∧ (sample 0x42 .fetch).clockCycle = .fetch := by decide
theorem witness_at_boundary : AtBoundary (start 0x42) := by decide
theorem witness_step_runs_decoded :
    Executing (sample 0x1F .execute5) ∧ decode (sample 0x1F .execute5).ir = .add 15 := by decide
theorem witness_step_runs_fetched :
    AtBoundary (start 0x2F) ∧ decode (memRead (start 0x2F) (start 0x2F).pc.toNat) = .sub 15 := by
  decide
/-- The hypotheses of the results of all sixteen instructions: each execute phase is met. -/
theorem witness_execute_phases :
    (sample 0x1F .execute3).clockCycle = .execute3 ∧
      (sample 0x1F .execute4).clockCycle = .execute4 ∧
      (sample 0x1F .execute5).clockCycle = .execute5 := by decide
theorem witness_load_frame_lda : ∃ t, exec (.lda 15) (sample 0x0F .execute4) = .next t := ⟨_, rfl⟩
theorem witness_load_frame_ldi : ∃ t, exec (.ldi 15) (sample 0x4F .execute3) = .next t := ⟨_, rfl⟩
theorem witness_arithmetic_frame_add : ∃ t, exec (.add 15) (sample 0x1F .execute5) = .next t :=
  ⟨_, rfl⟩
theorem witness_arithmetic_frame_sub : ∃ t, exec (.sub 15) (sample 0x2F .execute5) = .next t :=
  ⟨_, rfl⟩
theorem witness_store_frame_phase4 :
    (∃ t, exec (.sta 15) (sample 0x3F .execute4) = .next t) ∧
      (sample 0x3F .execute4).clockCycle ≠ .execute3 ∧ 30 % 16 ≠ (sample 0x3F .execute4).mar.toNat :=
  ⟨⟨_, rfl⟩, by decide, by decide⟩
theorem witness_store_frame_other_phases :
    (∃ t, exec (.sta 15) (sample 0x3F .execute3) = .next t) ∧
      (sample 0x3F .execute3).clockCycle ≠ .execute4 := ⟨⟨_, rfl⟩, by decide⟩
theorem witness_store_cycle :
    AtBoundary (start 0x3F) ∧ instrAtPc (start 0x3F) = .sta 15 ∧ 0 % 16 ≠ (15#4).toNat := by decide
theorem witness_jump_frame :
    (∃ t, exec (.jmp 3) (sample 0x53 .execute3) = .next t) ∧
      (∃ t, exec (.jz 3) (sample 0x63 .execute3) = .next t) ∧
      ∃ t, exec (.jc 3) (sample 0x73 .execute3) = .next t := ⟨⟨_, rfl⟩, ⟨_, rfl⟩, ⟨_, rfl⟩⟩
theorem witness_output_halt_undefined_frame :
    (∃ t, exec (.out 0) (sample 0x80 .execute3) = .next t) ∧
      (∃ t, exec (.hlt 0) (sample 0x90 .execute3) = .next t) ∧
      ∃ t, exec (.rsvdF 3) (sample 0xF3 .execute3) = .next t := ⟨⟨_, rfl⟩, ⟨_, rfl⟩, ⟨_, rfl⟩⟩
theorem witness_zero_flag_of_255_plus_1 :
    ({ sample 0x1F .execute5 with a := 255, b := 1 }).clockCycle = .execute5 ∧
      ({ sample 0x1F .execute5 with a := 255, b := 1 }).a = 255 ∧
      ({ sample 0x1F .execute5 with a := 255, b := 1 }).b = 1 := by decide
theorem witness_zero_flag_unread :
    ¬ ((sample 0x1F .execute5).halted = false ∧ (sample 0x1F .execute5).clockCycle = .execute3 ∧
      ∃ n, decode (sample 0x1F .execute5).ir = .jz n) := by
  rintro ⟨-, h, -⟩
  exact absurd h (by decide)
/-- Phase 3 of another jump meets the hypothesis too: the flag that JC reads is not Z. -/
theorem witness_zero_flag_unread_by_jc :
    ¬ ((sample 0x75 .execute3).halted = false ∧ (sample 0x75 .execute3).clockCycle = .execute3 ∧
      ∃ n, decode (sample 0x75 .execute3).ir = .jz n) := by
  rintro ⟨-, -, n, h⟩
  rw [show decode (sample 0x75 .execute3).ir = .jc 5 by decide] at h
  cases h
theorem witness_carry_flag_unread_by_jz :
    ¬ ((sample 0x64 .execute3).halted = false ∧ (sample 0x64 .execute3).clockCycle = .execute3 ∧
      ∃ n, decode (sample 0x64 .execute3).ir = .jc n) := by
  rintro ⟨-, -, n, h⟩
  rw [show decode (sample 0x64 .execute3).ir = .jz 4 by decide] at h
  cases h
theorem witness_unobservable_in_phase4_of_add :
    ¬ ((sample 0x1F .execute4).halted = false ∧ (sample 0x1F .execute4).clockCycle = .execute5 ∧
      ∃ k, decode (sample 0x1F .execute4).ir = .add k ∨
        decode (sample 0x1F .execute4).ir = .sub k) := by
  rintro ⟨-, h, -⟩
  exact absurd h (by decide)
/-- Phase 5 of an instruction that is not ADD or SUB meets the hypothesis too. -/
theorem witness_unobservable_in_phase5_of_out :
    ¬ ((sample 0x80 .execute5).halted = false ∧ (sample 0x80 .execute5).clockCycle = .execute5 ∧
      ∃ k, decode (sample 0x80 .execute5).ir = .add k ∨
        decode (sample 0x80 .execute5).ir = .sub k) := by
  rintro ⟨-, -, n, h⟩
  rw [show decode (sample 0x80 .execute5).ir = .out 0 by decide] at h
  rcases h with h | h <;> cases h
theorem witness_jump_jmp : AtBoundary (start 0x5F) ∧ instrAtPc (start 0x5F) = .jmp 15 := by decide
theorem witness_jump_jz_taken :
    AtBoundary { start 0x60 with z := true } ∧ instrAtPc { start 0x60 with z := true } = .jz 0 ∧
      true = ({ start 0x60 with z := true }).z := by decide
theorem witness_jump_jc_not_taken :
    AtBoundary (start 0x73) ∧ instrAtPc (start 0x73) = .jc 3 ∧ false = (start 0x73).c := by decide
theorem witness_jump_changes_pc :
    Executing (sample 0x53 .execute3) ∧
      view (step (sample 0x53 .execute3)) (fun t => decide (t.pc ≠ (sample 0x53 .execute3).pc)) =
        some true := by decide
theorem witness_successor_bounds :
    AtBoundary (start 0x42) ∧ instrAtPc (start 0x42) = .ldi 2 ∧ 2 ≤ 2 ∧ 2 ≤ 6 ∧ 6 ≤ 6 := by decide
theorem witness_store_into_next_cell :
    AtBoundary (start 0x30) ∧ instrAtPc (start 0x30) = .sta 0 ∧ 0 = (start 0x30).pc + 1 := by decide
theorem witness_halt_cycle :
    AtBoundary (start 0x9F) ∧ instrAtPc (start 0x9F) = .hlt 15 ∧ 4 ≤ 4 := by decide
/-- One complete cycle (LDI 2 in cell 15) and then a HLT in cell 0. -/
theorem witness_program_halts :
    AtBoundary { start 0x42 with memory := [(0, 0x90), (15, 0x42)] } ∧
      instrAtPc { start 0x42 with memory := [(0, 0x90), (15, 0x42)] } = .ldi 2 ∧
      view (steps (6 * 1) { start 0x42 with memory := [(0, 0x90), (15, 0x42)] }) instrAtPc =
        some (.hlt 0) := by decide
theorem witness_addresses_that_wrap : 31 % 16 = 15 % 16 ∧ 16 % 16 ≠ 15 % 16 := by decide
theorem witness_canonical_memories :
    (start 0x42).memory.wf = true ∧ snapshot (start 0x42) = snapshot (start 0x42) ∧
      memoryCells (start 0x42) = memoryCells (start 0x42) ∧ (start 0x42).memory ≠ [] := by decide
/-- The invariant is met in the middle of a cycle: after phase 4 of ADD 15. -/
theorem witness_controller_invariant_step :
    ControllerInv (sample 0x1F .execute5) ∧ ∃ t, step (sample 0x1F .execute5) = .next t :=
  ⟨⟨rfl, (fun h => by cases h), fun _ => ⟨rfl, rfl⟩⟩, _, rfl⟩
/-- It is met by a halted machine, and refuses one whose IR holds no HLT word. -/
theorem witness_controller_invariant_halted :
    ControllerInv { start 0x9F with halted := true, pc := 0, mar := 15, ir := 0x9F } :=
  ⟨rfl, fun _ => ⟨rfl, rfl, 0xF, rfl⟩, (fun h => by cases h)⟩
theorem test_controller_invariant_refuses :
    ¬ ControllerInv { sample 0x42 .execute3 with halted := true } := by
  rintro ⟨-, h, -⟩
  obtain ⟨h, -⟩ := h rfl
  exact absurd h (by decide)

end Sys2Proof.Tests
end

/-!
SUPPORT and PROOFS for 10_state. First what one Step does, said once as a total function `nextState`
(40_controller_and_fetch R90 to R97, the dispatch table of R95 transposed); then the statements of the
family, each a case split over the phases and, where a phase writes the element, the instructions.
-/

namespace Sys2Proof.Machine

/-! ### The dispatch table by phase: what each instruction does in an execute phase -/

/-- The column of phase 3 of the dispatch table (R95). -/
def cell3 (i : Instr) (s : State) : State :=
  match i with
  | .lda n | .add n | .sub n | .sta n => { s with mar := n }
  | .ldi n => { s with a := n.setWidth 8, z := decide (n.setWidth 8 = (0 : Byte)) }
  | .jmp n => { s with pc := n }
  | .jz n => { s with pc := if s.z then n else s.pc }
  | .jc n => { s with pc := if s.c then n else s.pc }
  | .out _ => { s with out := s.a }
  | .hlt _ => { s with halted := true }
  | .rsvdA _ | .rsvdB _ | .rsvdC _ | .rsvdD _ | .rsvdE _ | .rsvdF _ => s

/-- The column of phase 4 of the dispatch table (R95). -/
def cell4 (i : Instr) (s : State) : State :=
  match i with
  | .lda _ =>
    { s with a := memRead s s.mar.toNat, z := decide (memRead s s.mar.toNat = 0) }
  | .add _ | .sub _ => { s with b := memRead s s.mar.toNat }
  | .sta _ => memWrite s s.mar.toNat s.a
  | _ => s

/-- The column of phase 5 of the dispatch table (R95). -/
def cell5 (i : Instr) (s : State) : State :=
  match i with
  | .add _ =>
    { s with
      a := s.a + s.b
      c := decide (255 < s.a.toNat + s.b.toNat)
      z := decide (s.a + s.b = 0) }
  | .sub _ =>
    { s with
      a := s.a - s.b
      c := decide (s.a.toNat < s.b.toNat)
      z := decide (s.a - s.b = 0) }
  | _ => s

/-- Z of a written accumulator as a comparison with 0 (R123). -/
theorem writeA_eq_decide (v : Byte) (s : State) :
    writeA v s = { s with a := v, z := decide (v = 0) } := by
  rw [writeA_eq, isZero_eq]

theorem addPhase5_eq_cell5 (n : Nibble) (s : State) : addPhase5 s = cell5 (.add n) s := by
  rw [addPhase5_eq, isZero_eq, sumByte_eq]
  rfl

theorem subPhase5_eq_cell5 (n : Nibble) (s : State) : subPhase5 s = cell5 (.sub n) s := by
  rw [subPhase5_eq, isZero_eq, differenceByte_eq]
  rfl

/-- A row's answer depends on what its cells make of the present state alone. -/
theorem executeCells_congr {p3 p4 p5 q3 q4 q5 : State → State} {s : State} (h3 : p3 s = q3 s)
    (h4 : p4 s = q4 s) (h5 : p5 s = q5 s) :
    executeCells p3 p4 p5 s = executeCells q3 q4 q5 s := by
  simp only [executeCells, h3, h4, h5]

/-- Every instruction is the row of its three cells. -/
theorem exec_eq_executeCells (i : Instr) (s : State) :
    exec i s = executeCells (cell3 i) (cell4 i) (cell5 i) s := by
  cases i with
  | lda n => exact executeCells_congr rfl (writeA_eq_decide (memoryOperand s) s) rfl
  | add n => exact executeCells_congr rfl rfl (addPhase5_eq_cell5 n s)
  | sub n => exact executeCells_congr rfl rfl (subPhase5_eq_cell5 n s)
  | ldi n => exact executeCells_congr (writeA_eq_decide (immediate n) s) rfl rfl
  | jz n => exact executeCells_congr (jumpIf_eq s.z n s) rfl rfl
  | jc n => exact executeCells_congr (jumpIf_eq s.c n s) rfl rfl
  | _ => rfl

/-- Execute answers a next state in every phase (R101). -/
theorem exec_eq (i : Instr) (s : State) :
    exec i s = .next (cellState (cell3 i) (cell4 i) (cell5 i) s) := by
  rw [exec_eq_executeCells, executeCells_eq]

/-- If an instruction answers `t`, then `t` is what one of its cells leaves, or nothing has changed. -/
theorem exec_cases {i : Instr} {s t : State} (h : exec i s = .next t) :
    (s.clockCycle = .execute3 ∧ t = cell3 i s) ∨ (s.clockCycle = .execute4 ∧ t = cell4 i s) ∨
      (s.clockCycle = .execute5 ∧ t = cell5 i s) ∨ t = s := by
  rw [exec_eq_executeCells] at h
  exact executeCells_cases h

/-! ### What no instruction writes in an execute phase -/

@[simp] theorem cell3_b (i : Instr) (s : State) : (cell3 i s).b = s.b := by cases i <;> rfl
@[simp] theorem cell3_ir (i : Instr) (s : State) : (cell3 i s).ir = s.ir := by cases i <;> rfl
@[simp] theorem cell3_c (i : Instr) (s : State) : (cell3 i s).c = s.c := by cases i <;> rfl
@[simp] theorem cell3_clockCycle (i : Instr) (s : State) :
    (cell3 i s).clockCycle = s.clockCycle := by cases i <;> rfl
@[simp] theorem cell3_memory (i : Instr) (s : State) : (cell3 i s).memory = s.memory := by
  cases i <;> rfl

@[simp] theorem cell4_pc (i : Instr) (s : State) : (cell4 i s).pc = s.pc := by cases i <;> rfl
@[simp] theorem cell4_mar (i : Instr) (s : State) : (cell4 i s).mar = s.mar := by cases i <;> rfl
@[simp] theorem cell4_ir (i : Instr) (s : State) : (cell4 i s).ir = s.ir := by cases i <;> rfl
@[simp] theorem cell4_out (i : Instr) (s : State) : (cell4 i s).out = s.out := by cases i <;> rfl
@[simp] theorem cell4_c (i : Instr) (s : State) : (cell4 i s).c = s.c := by cases i <;> rfl
@[simp] theorem cell4_halted (i : Instr) (s : State) : (cell4 i s).halted = s.halted := by
  cases i <;> rfl
@[simp] theorem cell4_clockCycle (i : Instr) (s : State) :
    (cell4 i s).clockCycle = s.clockCycle := by cases i <;> rfl

@[simp] theorem cell5_b (i : Instr) (s : State) : (cell5 i s).b = s.b := by cases i <;> rfl
@[simp] theorem cell5_pc (i : Instr) (s : State) : (cell5 i s).pc = s.pc := by cases i <;> rfl
@[simp] theorem cell5_mar (i : Instr) (s : State) : (cell5 i s).mar = s.mar := by cases i <;> rfl
@[simp] theorem cell5_ir (i : Instr) (s : State) : (cell5 i s).ir = s.ir := by cases i <;> rfl
@[simp] theorem cell5_out (i : Instr) (s : State) : (cell5 i s).out = s.out := by cases i <;> rfl
@[simp] theorem cell5_halted (i : Instr) (s : State) : (cell5 i s).halted = s.halted := by
  cases i <;> rfl
@[simp] theorem cell5_clockCycle (i : Instr) (s : State) :
    (cell5 i s).clockCycle = s.clockCycle := by cases i <;> rfl
@[simp] theorem cell5_memory (i : Instr) (s : State) : (cell5 i s).memory = s.memory := by
  cases i <;> rfl

/-! ### Step as a total function -/

/-- The body of phase `p` (R92 to R95) when IR holds the instruction `i`. -/
def phaseEffect (p : Phase) (i : Instr) (s : State) : State :=
  match p with
  | .addressSetup => { s with mar := s.pc }
  | .pcIncrement => { s with pc := s.pc + 1 }
  | .fetch => { s with ir := memRead s s.mar.toNat }
  | .execute3 => cell3 i s
  | .execute4 => cell4 i s
  | .execute5 => cell5 i s

/-- The state that a Step leaves: nothing but the phase changes on a halted machine (R91, R96). -/
def nextState (s : State) : State :=
  advanceClock (if s.halted then s else phaseEffect s.clockCycle (decode s.ir) s)

theorem phaseBody_eq (s : State) :
    phaseBody s = .next (phaseEffect s.clockCycle (decode s.ir) s) := by
  cases hp : s.clockCycle with
  | addressSetup | fetch => simp only [phaseBody, hp]; rfl
  | pcIncrement => simp only [phaseBody, hp, pcIncrement_eq]; rfl
  | execute3 | execute4 | execute5 =>
    simp only [phaseBody, hp, exec_eq, cellState]
    rfl

/-- Every Step answers a next state, and this one. -/
theorem step_eq (s : State) : step s = .next (nextState s) := by
  cases hh : s.halted with
  | true => simp only [step, gatedBody_halted hh, nextState, hh]; rfl
  | false => simp only [step, gatedBody_running hh, phaseBody_eq, nextState, hh]; rfl

/-- `n` Steps answer the state of `n` single ones. -/
theorem steps_eq (n : Nat) (s : State) : steps n s = .next (nextState^[n] s) := by
  induction n generalizing s with
  | zero => rfl
  | succ n ih => simp only [steps, step_eq, ih, Function.iterate_succ_apply]

theorem nextState_halted {s : State} (h : s.halted = true) :
    nextState s = { s with clockCycle := nextPhase s.clockCycle } := by
  rw [nextState, if_pos h]
  rfl

theorem nextState_running {s : State} (h : s.halted = false) :
    nextState s = advanceClock (phaseEffect s.clockCycle (decode s.ir) s) := by
  simp [nextState, h]

@[simp] theorem phaseEffect_clockCycle (p : Phase) (i : Instr) (s : State) :
    (phaseEffect p i s).clockCycle = s.clockCycle := by
  cases p with
  | addressSetup | pcIncrement | fetch => rfl
  | execute3 => exact cell3_clockCycle i s
  | execute4 => exact cell4_clockCycle i s
  | execute5 => exact cell5_clockCycle i s

/-- The phase counter advances in every Step (R96). -/
@[simp] theorem nextState_clockCycle (s : State) :
    (nextState s).clockCycle = nextPhase s.clockCycle := by
  unfold nextState
  split <;> simp

/-- The next value of any part of the state that the advance of the phase counter leaves alone is
decided by the phase body, and only on a running machine. -/
theorem nextState_part {α : Type} (part : State → α)
    (hadv : ∀ s, part (advanceClock s) = part s) {s : State} {x : α}
    (hbody : part (phaseEffect s.clockCycle (decode s.ir) s) = x) :
    part (nextState s) = if s.halted then part s else x := by
  rw [nextState, hadv, apply_ite part, hbody]

/-! ### Next values of the registers and flags -/

/-- Settles O29: A changes in phase 3, 4 and 5 alone, each split over the instructions. -/
theorem accumulatorNextValue : Obligations.AccumulatorNextValue := by
  intro s
  refine ⟨nextState s, step_eq s, nextState_part State.a advanceClock_a ?_⟩
  generalize decode s.ir = i
  cases s.clockCycle with
  | addressSetup | pcIncrement | fetch => rfl
  | execute3 | execute4 | execute5 => cases i <;> rfl

/-- Settles O30: B is in no cell of phases 3 and 5. -/
theorem scratchRegisterNextValue : Obligations.ScratchRegisterNextValue := by
  intro s
  refine ⟨nextState s, step_eq s, nextState_part State.b advanceClock_b ?_⟩
  generalize decode s.ir = i
  cases s.clockCycle with
  | addressSetup | pcIncrement | fetch => rfl
  | execute3 => exact cell3_b i s
  | execute4 => cases i <;> rfl
  | execute5 => exact cell5_b i s

/-- Settles O31: of the execute phases only phase 3 holds PC or MAR, and none holds IR. -/
theorem fetchRegistersNextValue : Obligations.FetchRegistersNextValue := by
  intro s
  refine ⟨nextState s, step_eq s, nextState_part State.pc advanceClock_pc ?_,
    nextState_part State.mar advanceClock_mar ?_, nextState_part State.ir advanceClock_ir ?_⟩
  all_goals generalize decode s.ir = i
  case refine_1 =>
    cases s.clockCycle with
    | addressSetup | pcIncrement | fetch => rfl
    | execute3 => cases i <;> rfl
    | execute4 => exact cell4_pc i s
    | execute5 => exact cell5_pc i s
  case refine_2 =>
    cases s.clockCycle with
    | addressSetup | pcIncrement | fetch => rfl
    | execute3 => cases i <;> rfl
    | execute4 => exact cell4_mar i s
    | execute5 => exact cell5_mar i s
  case refine_3 =>
    cases s.clockCycle with
    | addressSetup | pcIncrement | fetch => rfl
    | execute3 => exact cell3_ir i s
    | execute4 => exact cell4_ir i s
    | execute5 => exact cell5_ir i s

/-- A phase body sets Halted in phase 3 of HLT and else leaves it. -/
theorem phaseEffect_halted_iff (p : Phase) (i : Instr) (s : State) :
    (phaseEffect p i s).halted = true ↔
      s.halted = true ∨ (p = .execute3 ∧ ∃ n, i = .hlt n) := by
  cases p with
  | addressSetup | pcIncrement | fetch | execute4 | execute5 => simp [phaseEffect]
  | execute3 => cases i <;> simp [phaseEffect, cell3]

/-- Halted is never cleared, and set by phase 3 of HLT alone (R29). -/
theorem nextState_halted_iff (s : State) :
    (nextState s).halted = true ↔
      s.halted = true ∨ (s.clockCycle = .execute3 ∧ ∃ n, decode s.ir = .hlt n) := by
  cases hh : s.halted with
  | true => simp [nextState_halted hh, hh]
  | false => simp [nextState_running hh, phaseEffect_halted_iff, hh]

/-- Settles O32: OUT is in the cells of phase 3 alone, and so is Halted. -/
theorem outputAndHaltNextValue : Obligations.OutputAndHaltNextValue := by
  intro s
  refine ⟨nextState s, step_eq s, nextState_part State.out advanceClock_out ?_,
    nextState_halted_iff s⟩
  generalize decode s.ir = i
  cases s.clockCycle with
  | addressSetup | pcIncrement | fetch => rfl
  | execute3 => cases i <;> rfl
  | execute4 => exact cell4_out i s
  | execute5 => exact cell5_out i s

/-- Settles O34: C is in the cells of phase 5 alone. -/
theorem carryFlagNextValue : Obligations.CarryFlagNextValue := by
  intro s
  refine ⟨nextState s, step_eq s, nextState_part State.c advanceClock_c ?_⟩
  generalize decode s.ir = i
  cases s.clockCycle with
  | addressSetup | pcIncrement | fetch => rfl
  | execute3 => exact cell3_c i s
  | execute4 => exact cell4_c i s
  | execute5 => cases i <;> rfl

/-! ### The flags are read by the conditional jumps alone -/

/-- An operation took `s` to `t`, and `s` with the value `v` in a field to `t'`: it did not read the
field if it passed `v` through and kept the value of `s`, or overwrote both alike. -/
def PassedOrWritten {α : Type} (get : State → α) (set : State → α → State) (v : α)
    (s t t' : State) : Prop :=
  (t' = set t v ∧ get t = get s) ∨ t' = t

/-- The two cases say that the results differ at most in the field, and there only if it was passed
through; `get` and `set` need only undo each other, as a field of the record and its update do. -/
theorem PassedOrWritten.differ_at_most {α : Type} {get : State → α} {set : State → α → State}
    {v : α} {s t t' : State} (h : PassedOrWritten get set v s t t')
    (get_set : ∀ u w, get (set u w) = w) (set_get : ∀ u, set u (get u) = u) :
    t' = set t (get t') ∧ (get t' = get t ∨ (get t' = v ∧ get t = get s)) := by
  obtain ⟨rfl, hkept⟩ | rfl := h
  · exact ⟨by rw [get_set], .inr ⟨get_set t v, hkept⟩⟩
  · exact ⟨(set_get t').symm, .inl rfl⟩

/-- A phase body reads Z in phase 3 of JZ alone (R27). -/
theorem phaseEffect_setZ {p : Phase} {i : Instr} (s : State) (v : Bool)
    (h : p = .execute3 → ∀ n, i ≠ .jz n) :
    PassedOrWritten State.z State.setZ v s (phaseEffect p i s) (phaseEffect p i (s.setZ v)) := by
  cases p with
  | addressSetup | pcIncrement | fetch => exact .inl ⟨rfl, rfl⟩
  | execute3 =>
    cases i with
    | jz n => exact absurd rfl (h rfl n)
    | ldi n => exact .inr rfl
    | _ => exact .inl ⟨rfl, rfl⟩
  | execute4 =>
    cases i with
    | lda n => exact .inr rfl
    | _ => exact .inl ⟨rfl, rfl⟩
  | execute5 =>
    cases i with
    | add n | sub n => exact .inr rfl
    | _ => exact .inl ⟨rfl, rfl⟩

/-- A phase body reads C in phase 3 of JC alone (R28). -/
theorem phaseEffect_setC {p : Phase} {i : Instr} (s : State) (v : Bool)
    (h : p = .execute3 → ∀ n, i ≠ .jc n) :
    PassedOrWritten State.c State.setC v s (phaseEffect p i s) (phaseEffect p i (s.setC v)) := by
  cases p with
  | addressSetup | pcIncrement | fetch => exact .inl ⟨rfl, rfl⟩
  | execute3 =>
    cases i with
    | jc n => exact absurd rfl (h rfl n)
    | _ => exact .inl ⟨rfl, rfl⟩
  | execute4 => cases i <;> exact .inl ⟨rfl, rfl⟩
  | execute5 =>
    cases i with
    | add n | sub n => exact .inr rfl
    | _ => exact .inl ⟨rfl, rfl⟩

/-- The advance of the phase counter reads no field that it commutes with. -/
theorem PassedOrWritten.advance {α : Type} {get : State → α} {set : State → α → State} {v : α}
    {s t t' : State} (h : PassedOrWritten get set v s t t')
    (get_advance : ∀ u, get (advanceClock u) = get u)
    (set_advance : ∀ u, advanceClock (set u v) = set (advanceClock u) v) :
    PassedOrWritten get set v s (advanceClock t) (advanceClock t') := by
  obtain ⟨rfl, hkept⟩ | rfl := h
  · exact .inl ⟨set_advance t, (get_advance t).trans hkept⟩
  · exact .inr rfl

/-- A Step reads Z in phase 3 of JZ on a running machine alone. -/
theorem nextState_setZ {s : State} (v : Bool)
    (h : ¬ (s.halted = false ∧ s.clockCycle = .execute3 ∧ ∃ n, decode s.ir = .jz n)) :
    PassedOrWritten State.z State.setZ v s (nextState s) (nextState (s.setZ v)) := by
  cases hh : s.halted with
  | true =>
    rw [nextState_halted hh, nextState_halted (s := s.setZ v) hh]
    exact .inl ⟨rfl, rfl⟩
  | false =>
    rw [nextState_running hh, nextState_running (s := s.setZ v) hh]
    exact (phaseEffect_setZ s v fun hp n hi => h ⟨hh, hp, n, hi⟩).advance
      advanceClock_z (fun _ => rfl)

/-- A Step reads C in phase 3 of JC on a running machine alone. -/
theorem nextState_setC {s : State} (v : Bool)
    (h : ¬ (s.halted = false ∧ s.clockCycle = .execute3 ∧ ∃ n, decode s.ir = .jc n)) :
    PassedOrWritten State.c State.setC v s (nextState s) (nextState (s.setC v)) := by
  cases hh : s.halted with
  | true =>
    rw [nextState_halted hh, nextState_halted (s := s.setC v) hh]
    exact .inl ⟨rfl, rfl⟩
  | false =>
    rw [nextState_running hh, nextState_running (s := s.setC v) hh]
    exact (phaseEffect_setC s v fun hp n hi => h ⟨hh, hp, n, hi⟩).advance
      advanceClock_c (fun _ => rfl)

/-- Settles O36: outside phase 3 of JZ a Step passes Z through or overwrites it. -/
theorem zeroFlagReadOnlyByJz : Obligations.ZeroFlagReadOnlyByJz := fun s v h =>
  ⟨nextState s, nextState (s.setZ v), step_eq s, step_eq (s.setZ v),
    (nextState_setZ v h).differ_at_most (fun _ _ => rfl) (fun _ => rfl)⟩

/-- Settles O37: outside phase 3 of JC a Step passes C through or overwrites it. -/
theorem carryFlagReadOnlyByJc : Obligations.CarryFlagReadOnlyByJc := fun s v h =>
  ⟨nextState s, nextState (s.setC v), step_eq s, step_eq (s.setC v),
    (nextState_setC v h).differ_at_most (fun _ _ => rfl) (fun _ => rfl)⟩

/-! ### B and OUT are not observable -/

/-- The one Step that reads B (R22): phase 5 of a running ADD or SUB. -/
abbrev ReadsB (s : State) : Prop :=
  s.halted = false ∧ s.clockCycle = .execute5 ∧ ∃ k, decode s.ir = .add k ∨ decode s.ir = .sub k

/-- `t` is `s` but for B and OUT, and has the B of `s` where the next Step reads it. -/
def SameButUnreadBAndOut (s t : State) : Prop :=
  ∃ vb vo, t = (s.setB vb).setOut vo ∧ (ReadsB s → vb = s.b)

/-- A phase body that does not read B leaves every field but B and OUT the same whatever they are. -/
theorem phaseEffect_setBOut {p : Phase} {i : Instr} {s : State} {vb : Byte} (vo : Byte)
    (h : p = .execute5 → (∃ k, i = .add k ∨ i = .sub k) → vb = s.b) :
    ∃ wb wo, phaseEffect p i ((s.setB vb).setOut vo) =
      ((phaseEffect p i s).setB wb).setOut wo := by
  cases p with
  | addressSetup | pcIncrement | fetch => exact ⟨vb, vo, rfl⟩
  | execute3 | execute4 => cases i <;> exact ⟨_, _, rfl⟩
  | execute5 =>
    cases i with
    | add k => obtain rfl := h rfl ⟨k, .inl rfl⟩; exact ⟨_, _, rfl⟩
    | sub k => obtain rfl := h rfl ⟨k, .inr rfl⟩; exact ⟨_, _, rfl⟩
    | _ => exact ⟨_, _, rfl⟩

/-- The Step before one that reads B is phase 4 of the same running ADD or SUB. -/
theorem phase4_of_readsB_nextState {s : State} (h : ReadsB (nextState s)) :
    s.halted = false ∧ s.clockCycle = .execute4 ∧
      ∃ k, decode s.ir = .add k ∨ decode s.ir = .sub k := by
  obtain ⟨hrun, hclock, hinstr⟩ := h
  have hh : s.halted = false := by
    refine Bool.eq_false_of_not_eq_true fun hhalt => ?_
    simp [nextState_halted hhalt, hhalt] at hrun
  have hp : s.clockCycle = .execute4 := by
    rw [nextState_clockCycle] at hclock
    cases hp : s.clockCycle <;> simp [hp, nextPhase] at hclock ⊢
  refine ⟨hh, hp, ?_⟩
  simpa [nextState_running hh, hp, phaseEffect] using hinstr

/-- Phase 4 of ADD and SUB loads B (R22). -/
theorem nextState_b_of_phase4 {s : State} (hh : s.halted = false)
    (hp : s.clockCycle = .execute4) (hi : ∃ k, decode s.ir = .add k ∨ decode s.ir = .sub k) :
    (nextState s).b = memRead s s.mar.toNat := by
  obtain ⟨k, hi | hi⟩ := hi <;> simp [nextState_running hh, hp, hi, phaseEffect, cell4]

/-- A Step keeps two states the same but for unread B and OUT: where the next Step reads B, this one
has loaded it from memory in both. -/
theorem SameButUnreadBAndOut.afterStep {s t : State} (h : SameButUnreadBAndOut s t) :
    SameButUnreadBAndOut (nextState s) (nextState t) := by
  obtain ⟨vb, vo, rfl, hread⟩ := h
  cases hh : s.halted with
  | true =>
    rw [nextState_halted hh, nextState_halted (s := (s.setB vb).setOut vo) hh]
    exact ⟨vb, vo, rfl, fun h => by simp [ReadsB, hh] at h⟩
  | false =>
    obtain ⟨wb, wo, hw⟩ := phaseEffect_setBOut (i := decode s.ir) vo
      fun hp hi => hread ⟨hh, hp, hi⟩
    have hnext : nextState ((s.setB vb).setOut vo) =
        ((nextState s).setB wb).setOut wo := by
      rw [nextState_running hh, nextState_running (s := (s.setB vb).setOut vo) hh]
      exact congrArg advanceClock hw
    refine ⟨wb, wo, hnext, fun hnextReads => ?_⟩
    obtain ⟨-, hp, hi⟩ := phase4_of_readsB_nextState hnextReads
    have hb := nextState_b_of_phase4 (s := (s.setB vb).setOut vo) hh hp hi
    rw [hnext] at hb
    exact hb.trans (nextState_b_of_phase4 hh hp hi).symm

/-- Any number of Steps keeps two states the same but for unread B and OUT. -/
theorem SameButUnreadBAndOut.iterate {s t : State} (h : SameButUnreadBAndOut s t) (n : Nat) :
    SameButUnreadBAndOut (nextState^[n] s) (nextState^[n] t) := by
  induction n with
  | zero => exact h
  | succ n ih => simpa only [Function.iterate_succ_apply'] using ih.afterStep

/-- Settles O38: a premise that excludes the reading Step makes the states the same but for unread
B and OUT, and Steps keep that. -/
theorem scratchAndOutputRegistersAreUnobservable :
    Obligations.ScratchAndOutputRegistersAreUnobservable := by
  intro n s vb vo hnot
  have hsame : SameButUnreadBAndOut s ((s.setB vb).setOut vo) :=
    ⟨vb, vo, rfl, fun h => absurd h hnot⟩
  obtain ⟨wb, wo, hw, -⟩ := hsame.iterate n
  exact ⟨nextState^[n] s, wb, wo, steps_eq n s, (steps_eq n _).trans (congrArg _ hw)⟩

/-! ### A halted machine -/

/-- `n` Steps of a halted machine advance the phase `n` times and change nothing else (R91). -/
theorem iterate_nextState_halted {s : State} (h : s.halted = true) (n : Nat) :
    nextState^[n] s = { s with clockCycle := nextPhase^[n] s.clockCycle } := by
  induction n with
  | zero => rfl
  | succ n ih =>
    rw [Function.iterate_succ_apply', Function.iterate_succ_apply', ih]
    exact nextState_halted h

theorem phaseNumber_nextPhase (p : Phase) : phaseNumber (nextPhase p) = (phaseNumber p + 1) % 6 := by
  cases p <;> rfl

/-- Advancing `n` times adds `n` modulo 6 (R96). -/
theorem phaseNumber_iterate_nextPhase (n : Nat) (p : Phase) :
    phaseNumber (nextPhase^[n] p) = (phaseNumber p + n) % 6 := by
  induction n with
  | zero => cases p <;> rfl
  | succ n ih =>
    rw [Function.iterate_succ_apply', phaseNumber_nextPhase, ih]
    omega

/-- Run takes no Step from a halted state, whatever the budget (R173). -/
theorem run_halted {s : State} (h : s.halted = true) (n : Nat) : run n s = .next s := by
  cases n with
  | zero => rfl
  | succ n => simp [run, h]

/-- Settles O44, from the iterated halted Step and the halt test of Run. -/
theorem haltedIsStickyForever : Obligations.HaltedIsStickyForever := fun n s h =>
  ⟨⟨nextPhase^[n] s.clockCycle, by rw [steps_eq, iterate_nextState_halted h],
    phaseNumber_iterate_nextPhase n s.clockCycle⟩, run_halted h n⟩

/-! ### The host sees the whole state -/

/-- What the canonical form says of a first entry. -/
theorem Memory.risingFrom_cons_iff {lo b : Nat} {v : Byte} {rest : Memory} :
    Memory.risingFrom lo ((b, v) :: rest) = true ↔
      lo ≤ b ∧ b < 16 ∧ v ≠ unlistedByte ∧ Memory.risingFrom (b + 1) rest = true := by
  simp [Memory.risingFrom, and_assoc]

/-- No cell below the first possible address of a rising list is listed. -/
theorem Memory.read_of_lt_risingFrom {lo addr : Nat} {m : Memory}
    (hm : Memory.risingFrom lo m = true) (h : addr < lo) : m.read addr = unlistedByte := by
  induction m generalizing lo with
  | nil => rfl
  | cons e rest ih =>
    obtain ⟨b, v⟩ := e
    obtain ⟨hlo, -, -, hrest⟩ := Memory.risingFrom_cons_iff.mp hm
    have hb : b ≠ addr := by omega
    simpa [Memory.read, hb] using ih hrest (by omega)

/-- A rising list lists no cell before its first entry, so of two that read alike the second has no
later first entry than the first. -/
theorem Memory.head_le_of_read_eq {lo b b' : Nat} {v v' : Byte} {rest rest' : Memory}
    (hm : Memory.risingFrom lo ((b, v) :: rest) = true)
    (hm' : Memory.risingFrom lo ((b', v') :: rest') = true)
    (hread : ∀ a < 16, Memory.read ((b, v) :: rest) a = Memory.read ((b', v') :: rest') a) :
    b' ≤ b := by
  obtain ⟨-, hb, hv, -⟩ := Memory.risingFrom_cons_iff.mp hm
  obtain ⟨-, hb', hv', hrest'⟩ := Memory.risingFrom_cons_iff.mp hm'
  by_contra hlt
  have hunlisted : Memory.read ((b', v') :: rest') b = unlistedByte :=
    Memory.read_of_lt_risingFrom
      (Memory.risingFrom_cons_iff.mpr ⟨le_refl b', hb', hv', hrest'⟩) (by omega)
  have hhead : Memory.read ((b, v) :: rest) b = v := if_pos rfl
  exact hv (hhead.symm.trans ((hread b hb).trans hunlisted))

/-- Canonical memories with the same 16 cells are the same list. -/
theorem Memory.eq_of_read_eq {lo : Nat} {m m' : Memory} (hm : Memory.risingFrom lo m = true)
    (hm' : Memory.risingFrom lo m' = true) (hread : ∀ a < 16, m.read a = m'.read a) : m = m' := by
  induction m generalizing lo m' with
  | nil =>
    cases m' with
    | nil => rfl
    | cons e' rest' =>
      obtain ⟨b', v'⟩ := e'
      obtain ⟨-, hb', hv', -⟩ := Memory.risingFrom_cons_iff.mp hm'
      exact absurd (by simpa [Memory.read] using (hread b' hb').symm) hv'
  | cons e rest ih =>
    obtain ⟨b, v⟩ := e
    obtain ⟨-, hb, hv, hrest⟩ := Memory.risingFrom_cons_iff.mp hm
    cases m' with
    | nil => exact absurd (by simpa [Memory.read] using hread b hb) hv
    | cons e' rest' =>
      obtain ⟨b', v'⟩ := e'
      obtain ⟨-, -, -, hrest'⟩ := Memory.risingFrom_cons_iff.mp hm'
      obtain rfl : b = b' := Nat.le_antisymm
        (Memory.head_le_of_read_eq hm' hm fun a ha => (hread a ha).symm)
        (Memory.head_le_of_read_eq hm hm' hread)
      obtain rfl : v = v' := by simpa [Memory.read] using hread b hb
      have htail : rest = rest' := ih hrest hrest' fun a ha => by
        by_cases hab : b = a
        · rw [Memory.read_of_lt_risingFrom hrest (by omega),
            Memory.read_of_lt_risingFrom hrest' (by omega)]
        · simpa [Memory.read, hab] using hread a ha
      rw [htail]

/-- Equal lists of the 16 cells are equal reads of every cell. -/
theorem read_eq_of_memoryCells_eq {s t : State} (h : memoryCells s = memoryCells t) (a : Nat)
    (ha : a < 16) : s.memory.read a = t.memory.read a := by
  have := List.map_inj_left.mp h a (List.mem_range.mpr ha)
  simpa [memRead, Nat.mod_eq_of_lt ha] using this

/-- Settles O55: the snapshot holds every field but the memory, and the cells determine a canonical
memory. -/
theorem snapshotAndCellsDetermineTheState : Obligations.SnapshotAndCellsDetermineTheState := by
  intro s t hs ht hsnap hcells
  have hmem : s.memory = t.memory :=
    Memory.eq_of_read_eq hs ht (read_eq_of_memoryCells_eq hcells)
  simp only [snapshot, Snapshot.mk.injEq] at hsnap
  obtain ⟨ha, hb, hpc, hmar, hir, hout, hz, hc, hh, hk⟩ := hsnap
  exact State.ext_fields ha hb hpc hmar hir hout hz hc hh hk hmem

/-! ### The frame of OUT, HLT and the undefined opcodes -/

/-- Settles O28: the cells of OUT and HLT write one field in phase 3, the others nothing. -/
theorem outputHaltUndefinedFrame : Obligations.OutputHaltUndefinedFrame := by
  refine ⟨fun n s t h => ?_, fun n s t h => ?_, fun n i s t hi h => ?_⟩
  · obtain ⟨-, rfl⟩ | ⟨-, rfl⟩ | ⟨-, rfl⟩ | rfl := exec_cases h <;> exact ⟨rfl, fun _ => rfl⟩
  · obtain ⟨-, rfl⟩ | ⟨-, rfl⟩ | ⟨-, rfl⟩ | rfl := exec_cases h <;> exact ⟨rfl, fun _ => rfl⟩
  · have hidle : cell3 i s = s ∧ cell4 i s = s ∧ cell5 i s = s := by
      obtain rfl | rfl | rfl | rfl | rfl | rfl := hi <;> exact ⟨rfl, rfl, rfl⟩
    obtain ⟨h3, h4, h5⟩ := hidle
    obtain ⟨-, rfl⟩ | ⟨-, rfl⟩ | ⟨-, rfl⟩ | rfl := exec_cases h
    · exact h3
    · exact h4
    · exact h5
    · rfl

end Sys2Proof.Machine

/-!
SUPPORT and PROOFS for 20_memory: a read after a write (R52), where a Step writes memory (R64), and a
store into the program (R62).
-/

namespace Sys2Proof.Machine

/-! ### A read after a write -/

/-- Everything a write does to the reads of the state: addresses count modulo 16 (R52). -/
theorem memRead_memWrite (s : State) (addr other : Nat) (v : Byte) :
    memRead (memWrite s addr v) other =
      if other % 16 = addr % 16 then v else memRead s other :=
  Memory.read_write s.memory (addr % 16) (other % 16) v

/-- A write to a cell number is the write to its remainder modulo 16. -/
theorem memWrite_mod (s : State) (addr : Nat) (v : Byte) :
    memWrite s (addr % 16) v = memWrite s addr v := by
  simp [memWrite]

/-- Settles O54: the read law of `memRead_memWrite` for the same and for another cell. -/
theorem memReadReturnsLatestMemWrite : Obligations.MemReadReturnsLatestMemWrite := by
  intro s addr other v
  refine ⟨fun h => ?_, fun h => ?_, rfl, (memRead_mod s addr).symm, (memWrite_mod s addr v).symm⟩
  · rw [memRead_memWrite, if_pos h.symm]
  · rw [memRead_memWrite, if_neg (Ne.symm h)]

/-! ### The Step that writes memory -/

/-- Settles O35: of the phase bodies only phase 4 writes memory, and of its cells only that of STA. -/
theorem memoryNextContent : Obligations.MemoryNextContent := by
  intro s
  refine ⟨nextState s, step_eq s, fun addr =>
    nextState_part (memRead · addr) (fun t => memRead_congr (advanceClock_memory t) addr) ?_⟩
  generalize decode s.ir = i
  cases s.clockCycle with
  | addressSetup | pcIncrement | fetch => rfl
  | execute3 => exact memRead_congr (cell3_memory i s) addr
  | execute4 =>
    cases i with
    | sta n =>
      show memRead (memWrite s s.mar.toNat s.a) addr = _
      rw [memRead_memWrite, addr_mod]
    | _ => rfl
  | execute5 => exact memRead_congr (cell5_memory i s) addr

/-! ### A store into the program -/

/-- A Step of a running machine, with the phase and the instruction in IR named. -/
theorem nextState_of_phase {s : State} (p : Phase) (i : Instr) (hh : s.halted = false)
    (hp : s.clockCycle = p) (hi : decode s.ir = i) :
    nextState s = (phaseEffect p i s).setClock (nextPhase p) := by
  subst hp hi
  rw [nextState_running hh, advanceClock, phaseEffect_clockCycle]

/-- The fetch phases of a cycle, as one update (R92 to R94). -/
theorem iterate_three_nextState_of_atBoundary {s : State} (h : AtBoundary s) :
    nextState^[3] s =
      { s with
        mar := s.pc
        pc := s.pc + 1
        ir := memRead s s.pc.toNat
        clockCycle := .execute3 } := by
  obtain ⟨hh, hp⟩ := h
  calc nextState^[3] s
      = nextState^[2] { s with mar := s.pc, clockCycle := .pcIncrement } :=
        congrArg nextState^[2] (nextState_of_phase .addressSetup _ hh hp rfl)
    _ = nextState { s with mar := s.pc, pc := s.pc + 1, clockCycle := .fetch } :=
        congrArg nextState (nextState_of_phase .pcIncrement _ hh rfl rfl)
    _ = _ := nextState_of_phase .fetch _ hh rfl rfl

/-- The execute phases of STA, as one update (R111). -/
theorem iterate_three_nextState_of_sta {s : State} {n : Nibble} (hh : s.halted = false)
    (hp : s.clockCycle = .execute3) (hi : decode s.ir = .sta n) :
    nextState^[3] s =
      { memWrite s n.toNat s.a with mar := n, clockCycle := .addressSetup } := by
  calc nextState^[3] s
      = nextState^[2] { s with mar := n, clockCycle := .execute4 } :=
        congrArg nextState^[2] (nextState_of_phase .execute3 (.sta n) hh hp hi)
    _ = nextState { memWrite s n.toNat s.a with mar := n, clockCycle := .execute5 } :=
        congrArg nextState (nextState_of_phase .execute4 (.sta n) hh rfl hi)
    _ = _ := nextState_of_phase .execute5 (.sta n) hh rfl hi

/-- A whole cycle of STA, as one update: the word fetched stays in IR, whatever the store hits
(R59, R62). -/
theorem iterate_six_nextState_of_sta {s : State} {n : Nibble} (h : AtBoundary s)
    (hi : instrAtPc s = .sta n) :
    nextState^[6] s =
      { memWrite s n.toNat s.a with mar := n, pc := s.pc + 1, ir := memRead s s.pc.toNat } := by
  obtain ⟨hh, hp⟩ := h
  rw [Function.iterate_add_apply _ 3 3, iterate_three_nextState_of_atBoundary ⟨hh, hp⟩,
    iterate_three_nextState_of_sta (n := n)]
  · rw [← hp]
    rfl
  · exact hh
  · rfl
  · exact hi

/-- Settles O43: the cycle of STA ends at a boundary with A in the cell `n`, so that a fetch from
there, when `n` is the next address, reads A. -/
theorem storeIntoProgramIsSeenByNextFetch : Obligations.StoreIntoProgramIsSeenByNextFetch := by
  intro s n h hi
  have hcycle := iterate_six_nextState_of_sta h hi
  have hstored : memRead (nextState^[6] s) n.toNat = s.a := by
    rw [hcycle]
    exact (memRead_memWrite s n.toNat n.toNat s.a).trans (if_pos rfl)
  refine ⟨⟨nextState^[6] s, steps_eq 6 s, by rw [hcycle], hstored, by rw [hcycle]⟩, ?_⟩
  rintro rfl
  have hboundary : AtBoundary (nextState^[6] s) := by
    rw [hcycle]
    exact h
  have hfetched : (nextState^[9] s).ir = s.a := by
    rw [Function.iterate_add_apply _ 3 6, iterate_three_nextState_of_atBoundary hboundary,
      ← hstored, hcycle]
  exact ⟨nextState^[9] s, steps_eq 9 s, hfetched, congrArg decode hfetched⟩

end Sys2Proof.Machine

/-!
SUPPORT and PROOFS for 30_encoding. A word is the concatenation of its two nibbles, an instruction is
its opcode and its operand, and the decoder and the encoder join the two facts. A number such as
`0x30#8` is the concatenation `0x3#4 ++ 0#4` by evaluation, so that each row of the opcode map is an
instance of one law about an arbitrary opcode.
-/

namespace Sys2Proof

/-! ### A word and its nibbles -/

/-- Concatenating what splitting a word gives, gives the word (R72). -/
theorem highNibble_append_lowNibble (w : Byte) : highNibble w ++ lowNibble w = w := by
  apply BitVec.eq_of_getLsbD_eq
  intro i hi
  rw [BitVec.getLsbD_append]
  split
  · next hlow => simp [lowNibble, hlow]
  · next hhigh =>
    have hrange : i - 4 < 4 := by omega
    have hindex : 4 + (i - 4) = i := by omega
    simp [highNibble, hrange, hindex]

/-- The value of a concatenation of nibbles (R71). -/
theorem toNat_nibble_append (op n : Nibble) : (op ++ n).toNat = op.toNat * 16 + n.toNat := by
  rw [BitVec.toNat_append, ← Nat.shiftLeft_add_eq_or_of_lt n.isLt, Nat.shiftLeft_eq]

/-- The value of a word from its nibbles (R71). -/
theorem toNat_highNibble_lowNibble (w : Byte) :
    (highNibble w).toNat * 16 + (lowNibble w).toNat = w.toNat := by
  rw [← toNat_nibble_append, highNibble_append_lowNibble]

theorem toNat_highNibble (w : Byte) : (highNibble w).toNat = w.toNat / 16 := by
  have hw := toNat_highNibble_lowNibble w
  omega

theorem toNat_lowNibble (w : Byte) : (lowNibble w).toNat = w.toNat % 16 := by
  have hw := toNat_highNibble_lowNibble w
  omega

/-- The operand of R72, `w & 0xF`, is the word narrowed to 4 bits. -/
theorem lowNibble_eq_setWidth (w : Byte) : lowNibble w = w.setWidth 4 :=
  BitVec.eq_of_toNat_eq ((toNat_lowNibble w).trans (BitVec.toNat_setWidth 4 w).symm)

/-- Masking with 0xF0 keeps the opcode and clears the operand (R74). -/
theorem and_opcodeMask (w : Byte) : w &&& 0xF0#8 = highNibble w ++ 0#4 :=
  calc w &&& 0xF0#8
      = (highNibble w ++ lowNibble w) &&& (BitVec.allOnes 4 ++ 0#4) := by
        rw [highNibble_append_lowNibble]; rfl
    _ = highNibble w ++ 0#4 := by rw [BitVec.and_append, BitVec.and_allOnes, BitVec.and_zero]

/-- Adding a widened operand to a word with operand 0 puts the operand in (R71). -/
theorem append_zero_add_setWidth (op n : Nibble) : (op ++ 0#4) + n.setWidth 8 = op ++ n := by
  apply BitVec.eq_of_toNat_eq
  have hop : op.toNat < 16 := op.isLt
  have hn : n.toNat < 16 := n.isLt
  rw [BitVec.toNat_add, toNat_nibble_append, toNat_nibble_append, BitVec.toNat_setWidth]
  simp only [BitVec.toNat_zero]
  omega

/-- Settles O1: the nibbles' values, and concatenation for the one word of a pair. -/
theorem decoderSplitsWordIntoNibbles : Obligations.DecoderSplitsWordIntoNibbles := by
  refine ⟨fun w => ⟨toNat_highNibble w, toNat_lowNibble w, toNat_highNibble_lowNibble w⟩,
    fun op n => ⟨op ++ n, fields_append op n, fun w hw => ?_⟩⟩
  obtain ⟨rfl, rfl⟩ := Prod.mk.inj hw
  exact (highNibble_append_lowNibble w).symm

/-! ### An instruction and its fields -/

/-- The opcode map reads an instruction back from its opcode and operand (R74). -/
theorem instrOfFields_opcodeOf_operandOf (i : Instr) :
    instrOfFields (opcodeOf i) (operandOf i) = i := by
  cases i <;> rfl

/-- Each row of the opcode map has the opcode it is listed under (R74). -/
theorem opcodeOf_instrOfFields (op n : Nibble) : opcodeOf (instrOfFields op n) = op := by
  unfold instrOfFields
  split
  case h_16 =>
    -- the default arm: the other fifteen opcodes are excluded
    show 0xF#4 = op
    simp only [imp_false] at *
    bv_omega
  all_goals rfl

theorem operandOf_instrOfFields (op n : Nibble) : operandOf (instrOfFields op n) = n := by
  unfold instrOfFields
  split <;> rfl

/-- The word with opcode `op` and operand `n` decodes to the row of `op` in the opcode map (R74). -/
theorem decode_append (op n : Nibble) : decode (op ++ n) = instrOfFields op n := by
  rw [decode, fields_append]

theorem decode_encode (i : Instr) : decode (encode i) = i := by
  rw [encode, decode_append, instrOfFields_opcodeOf_operandOf]

theorem encode_decode (w : Byte) : encode (decode w) = w := by
  rw [encode, decode, opcodeOf_instrOfFields, operandOf_instrOfFields]
  exact highNibble_append_lowNibble w

/-- Settles O2, from the two round trips and the value of a concatenation. -/
theorem decodeAndEncodeAreInverse : Obligations.DecodeAndEncodeAreInverse :=
  ⟨decode_encode, encode_decode, fun i => toNat_nibble_append (opcodeOf i) (operandOf i)⟩

/-! ### The rows of the opcode map -/

/-- A word with the opcode pattern of `op` is the row of `op` for its low nibble. -/
theorem decode_of_and_opcodeMask (op : Nibble) {w : Byte} (h : w &&& 0xF0#8 = op ++ 0#4) :
    decode w = instrOfFields op (w.setWidth 4) := by
  have hop : highNibble w = op := by
    rw [and_opcodeMask] at h
    simpa only [highNibble_append] using congrArg highNibble h
  rw [← hop, ← lowNibble_eq_setWidth]
  rfl

/-- The word `opcode * 16 + operand` decodes to the row of the opcode (R71, R74). -/
theorem decode_append_zero_add_setWidth (op n : Nibble) :
    decode ((op ++ 0#4) + n.setWidth 8) = instrOfFields op n := by
  rw [append_zero_add_setWidth, decode_append]

/-- Settles O4: eight closed words. -/
theorem sampleWordsDecodeAsListed : Obligations.SampleWordsDecodeAsListed := by
  unfold Obligations.SampleWordsDecodeAsListed
  decide

end Sys2Proof

namespace Sys2Proof.Machine

/-- Settles O3: the masked IR is the opcode with operand 0, and each row is
`decode_of_and_opcodeMask` at its opcode. -/
theorem opcodeOfIrSelectsItsRow : Obligations.OpcodeOfIrSelectsItsRow := by
  intro s
  refine ⟨⟨(highNibble s.ir).toNat, (highNibble s.ir).isLt, ?_⟩,
    decode_of_and_opcodeMask 0x0, decode_of_and_opcodeMask 0x1, decode_of_and_opcodeMask 0x2,
    decode_of_and_opcodeMask 0x3, decode_of_and_opcodeMask 0x4, decode_of_and_opcodeMask 0x5,
    decode_of_and_opcodeMask 0x6, decode_of_and_opcodeMask 0x7, decode_of_and_opcodeMask 0x8,
    decode_of_and_opcodeMask 0x9, decode_of_and_opcodeMask 0xA, decode_of_and_opcodeMask 0xB,
    decode_of_and_opcodeMask 0xC, decode_of_and_opcodeMask 0xD, decode_of_and_opcodeMask 0xE,
    decode_of_and_opcodeMask 0xF⟩
  rw [and_opcodeMask, toNat_nibble_append, Nat.mul_comm]
  rfl

/-- A row of dashes changes nothing, in every phase (R100). -/
theorem executeCells_idle (s : State) : executeCells idle idle idle s = .next s := by
  rw [executeCells_eq, cellState]
  cases s.clockCycle <;> rfl

/-- Settles O23: each word is `opcode * 16 + operand`, and each row is one of dashes. -/
theorem undefinedOpcodesDoNothing : Obligations.UndefinedOpcodesDoNothing :=
  fun n s =>
    ⟨⟨decode_append_zero_add_setWidth 0xA n, decode_append_zero_add_setWidth 0xB n,
        decode_append_zero_add_setWidth 0xC n, decode_append_zero_add_setWidth 0xD n,
        decode_append_zero_add_setWidth 0xE n, decode_append_zero_add_setWidth 0xF n⟩,
      fun _ => ⟨executeCells_idle s, executeCells_idle s, executeCells_idle s,
        executeCells_idle s, executeCells_idle s, executeCells_idle s⟩⟩

end Sys2Proof.Machine

/-!
SUPPORT and PROOFS for 40_controller_and_fetch. The three execute phases of an instruction are the
composition of its three cells, and that is `cycleEffect`; the fetch before them makes it
`instructionCycle`. The controller's invariant is kept because each phase establishes what the next
one is promised.
-/

namespace Sys2Proof.Machine

/-! ### Every Step keeps the controller's invariant -/

/-- A store to an existing cell is the only write to memory, and it keeps the canonical form. -/
theorem phaseEffect_memory_wf (p : Phase) (i : Instr) {s : State} (h : s.memory.wf = true) :
    (phaseEffect p i s).memory.wf = true := by
  cases p with
  | addressSetup | pcIncrement | fetch => exact h
  | execute3 => exact (cell3_memory i s).symm ▸ h
  | execute4 =>
    cases i with
    | sta n => exact memWrite_wf s.mar.toNat s.a h
    | _ => exact h
  | execute5 => exact (cell5_memory i s).symm ▸ h

theorem nextState_memory_wf {s : State} (h : s.memory.wf = true) :
    (nextState s).memory.wf = true := by
  cases hh : s.halted with
  | true => rw [nextState_halted hh]; exact h
  | false => rw [nextState_running hh]; exact phaseEffect_memory_wf _ _ h

/-- Phase 3 turns what the fetch left into what phase 4 relies on; after HLT no phase 4 runs (R91). -/
theorem afterPhase3_cell3 {i : Instr} {s : State} (hpc : s.pc = s.mar + 1)
    (hir : s.ir = memRead s s.mar.toNat) (hi : ∀ n, i ≠ .hlt n) : AfterPhase3 i (cell3 i s) := by
  cases i with
  | lda n | add n | sub n | sta n => rfl
  | ldi n => exact ⟨hpc, hir, rfl, rfl⟩
  | jmp n => exact ⟨rfl, hir⟩
  | jz n | jc n => exact ⟨by simp only [cell3, hpc], hir⟩
  | out n => exact ⟨hpc, hir, rfl⟩
  | hlt n => exact hi n rfl
  | _ => exact ⟨hpc, hir⟩

/-- Phase 4 turns what phase 3 left into what phase 5 relies on; STA reads back what it stored. -/
theorem afterPhase4_cell4 {i : Instr} {s : State} (h : AfterPhase3 i s) :
    AfterPhase4 i (cell4 i s) := by
  cases i with
  | lda n => exact ⟨h, rfl, rfl⟩
  | add n | sub n => exact ⟨h, rfl⟩
  | sta n => exact ⟨h, (memRead_memWrite s s.mar.toNat s.mar.toNat s.a).trans (if_pos rfl)⟩
  | _ => exact h

theorem afterPhase3_setClock {i : Instr} {s : State} (p : Phase) (h : AfterPhase3 i s) :
    AfterPhase3 i (s.setClock p) := by
  cases i <;> exact h

theorem afterPhase4_setClock {i : Instr} {s : State} (p : Phase) (h : AfterPhase4 i s) :
    AfterPhase4 i (s.setClock p) := by
  cases i <;> exact h

/-- A machine halts in phase 3 of the HLT it fetched (R141), and stays as it is from then on. -/
theorem ControllerInv.nextState_of_halts {s : State} (h : ControllerInv s)
    (hhalts : (nextState s).halted = true) : ControllerInv (nextState s) := by
  obtain ⟨hwf, hhalted, hrunning⟩ := h
  refine ⟨nextState_memory_wf hwf, fun _ => ?_, fun hrun => by simp [hhalts] at hrun⟩
  cases hh : s.halted with
  | true => rw [nextState_halted hh]; exact hhalted hh
  | false =>
    obtain habs | ⟨hp, n, hi⟩ := (nextState_halted_iff s).mp hhalts
    · simp [hh] at habs
    · rw [nextState_of_phase .execute3 (.hlt n) hh hp hi]
      have hfetched := hrunning hh
      rw [hp] at hfetched
      obtain ⟨hpc, hir⟩ := hfetched
      exact ⟨hpc, hir, n, hi⟩

/-- Each phase of a machine that keeps running establishes what the next phase is promised. -/
theorem ControllerInv.nextState_of_runs {s : State} (h : ControllerInv s)
    (hruns : (nextState s).halted = false) : ControllerInv (nextState s) := by
  have hgoes : ¬ (s.halted = true ∨ (s.clockCycle = .execute3 ∧ ∃ n, decode s.ir = .hlt n)) := by
    rw [← nextState_halted_iff, hruns]
    exact Bool.false_ne_true
  obtain ⟨hnothalted, hnothlt⟩ := not_or.mp hgoes
  have hh := Bool.eq_false_of_not_eq_true hnothalted
  obtain ⟨hwf, -, hpromise⟩ := h
  have hrunning := hpromise hh
  refine ⟨nextState_memory_wf hwf, fun habs => by simp [hruns] at habs, fun _ => ?_⟩
  cases hp : s.clockCycle with
  | addressSetup => rw [nextState_of_phase .addressSetup _ hh hp rfl]; rfl
  | pcIncrement =>
    rw [hp] at hrunning
    rw [nextState_of_phase .pcIncrement _ hh hp rfl]
    exact congrArg (· + 1) hrunning.symm
  | fetch =>
    rw [hp] at hrunning
    rw [nextState_of_phase .fetch _ hh hp rfl]
    exact ⟨hrunning, rfl⟩
  | execute3 =>
    rw [hp] at hrunning
    obtain ⟨hpc, hir⟩ := hrunning
    have hafter := afterPhase3_cell3 hpc hir fun n hi => hnothlt ⟨hp, n, hi⟩
    rw [nextState_of_phase .execute3 _ hh hp rfl]
    change AfterPhase3 (decode (cell3 (decode s.ir) s).ir) _
    rw [cell3_ir]
    exact afterPhase3_setClock _ hafter
  | execute4 =>
    rw [hp] at hrunning
    rw [nextState_of_phase .execute4 _ hh hp rfl]
    change AfterPhase4 (decode (cell4 (decode s.ir) s).ir) _
    rw [cell4_ir]
    exact afterPhase4_setClock _ (afterPhase4_cell4 hrunning)
  | execute5 => rw [nextState_of_phase .execute5 _ hh hp rfl]; trivial

/-- Settles O57, by whether the Step leaves the machine halted or running. -/
theorem everyStepKeepsTheControllerInvariant :
    Obligations.EveryStepKeepsTheControllerInvariant := by
  intro s t h hstep
  rw [step_eq] at hstep
  cases hstep
  cases hn : (nextState s).halted with
  | true => exact h.nextState_of_halts hn
  | false => exact h.nextState_of_runs hn

/-! ### One phase: the gate, the body, the advance -/

/-- Settles O6: the halt gate, and phase 3 of HLT. -/
theorem haltedStepAdvancesPhaseOnly : Obligations.HaltedStepAdvancesPhaseOnly :=
  ⟨fun s hh => (step_eq s).trans (congrArg _ (nextState_halted hh)),
    fun s n hh hp hi =>
      (step_eq s).trans (congrArg _ (nextState_of_phase .execute3 (.hlt n) hh hp hi))⟩

/-- Settles O7: the body of phase 0, advanced. -/
theorem addressSetupCopiesPcToMar : Obligations.AddressSetupCopiesPcToMar := fun s hh hp =>
  (step_eq s).trans (congrArg _ (nextState_of_phase .addressSetup _ hh hp rfl))

/-- Settles O8: the increment of a 4-bit word is the one modulo 16. -/
theorem pcIncrementAddsOneModuloSixteen : Obligations.PcIncrementAddsOneModuloSixteen :=
  fun s hh hp =>
    ⟨s.pc + 1, BitVec.toNat_add s.pc 1, fun h => by rw [h]; rfl,
      (step_eq s).trans (congrArg _ (nextState_of_phase .pcIncrement _ hh hp rfl))⟩

/-- Settles O9: the body of phase 2, advanced, and the three phases of a fetch. -/
theorem fetchLoadsIrFromCellAtMar : Obligations.FetchLoadsIrFromCellAtMar := by
  refine ⟨fun s hh hp =>
    (step_eq s).trans (congrArg _ (nextState_of_phase .fetch _ hh hp rfl)), fun s h => ?_⟩
  have hfetch := iterate_three_nextState_of_atBoundary h
  exact ⟨nextState^[3] s, steps_eq 3 s, by rw [hfetch], by rw [hfetch]⟩

/-- In an execute phase the Step is Execute of the decoded IR and the advance (R90, R95). -/
theorem step_of_executing {s : State} (h : Executing s) :
    step s = thenAdvance (exec (decode s.ir) s) := by
  obtain ⟨hh, hp | hp | hp⟩ := h <;>
    simp only [step, gatedBody_running hh, phaseBody, hp, currentInstr]

/-- Execute in phase 3 is the cell of phase 3. -/
theorem exec_of_execute3 (i : Instr) {s : State} (hp : s.clockCycle = .execute3) :
    exec i s = .next (cell3 i s) := by
  rw [exec_eq, cellState, hp]

/-- Settles O10: the Step of an execute phase, at any state and at the one the fetch leaves. -/
theorem stepRunsTheDecodedInstruction : Obligations.StepRunsTheDecodedInstruction := by
  constructor
  · rintro s i h rfl
    rw [step_of_executing h, exec_eq]
    rfl
  · rintro s i h rfl
    have hfetch := iterate_three_nextState_of_atBoundary h
    have hp : (nextState^[3] s).clockCycle = .execute3 := by rw [hfetch]
    have hh : (nextState^[3] s).halted = false := by rw [hfetch]; exact h.1
    have hi : decode (nextState^[3] s).ir = decode (memRead s s.pc.toNat) := by rw [hfetch]
    refine ⟨nextState^[3] s, steps_eq 3 s, hfetch, ?_⟩
    rw [step_eq, nextState_of_phase .execute3 _ hh hp hi, exec_of_execute3 _ hp]
    rfl

/-- `n` Steps advance the phase counter `n` times, halted or not (R96). -/
theorem iterate_nextState_clockCycle (n : Nat) (s : State) :
    (nextState^[n] s).clockCycle = nextPhase^[n] s.clockCycle :=
  (Function.Semiconj.iterate_right (f := State.clockCycle) nextState_clockCycle n) s

/-- Settles O11: every Step advances the phase, and the counter of phases counts modulo 6. -/
theorem phaseCounterCountsModuloSix : Obligations.PhaseCounterCountsModuloSix := by
  have hcount : ∀ (n : Nat) (s : State), ∃ t, steps n s = .next t ∧
      phaseNumber t.clockCycle = (phaseNumber s.clockCycle + n) % 6 := fun n s =>
    ⟨nextState^[n] s, steps_eq n s, by
      rw [iterate_nextState_clockCycle, phaseNumber_iterate_nextPhase]⟩
  refine ⟨hcount, fun n => ?_, fun s => ?_⟩
  · simpa [State.reset, phaseNumber] using hcount n State.reset
  · cases hh : s.halted with
    | true => exact ⟨s, rfl, by rw [step_eq, nextState_halted hh]⟩
    | false =>
      exact ⟨phaseEffect s.clockCycle (decode s.ir) s, phaseBody_eq s, by
        rw [step_eq, nextState_of_phase _ _ hh rfl rfl]; rfl⟩

/-! ### A whole instruction cycle -/

theorem cell4_setClock (i : Instr) (s : State) (p : Phase) :
    cell4 i (s.setClock p) = (cell4 i s).setClock p := by
  cases i <;> rfl

theorem cell5_setClock (i : Instr) (s : State) (p : Phase) :
    cell5 i (s.setClock p) = (cell5 i s).setClock p := by
  cases i <;> rfl

theorem cycleEffect_setClock (i : Instr) (s : State) (p : Phase) :
    cycleEffect i (s.setClock p) = (cycleEffect i s).setClock p := by
  cases i <;> rfl

/-- Widening with zeros makes no word zero that was not. -/
theorem setWidth_byte_eq_zero_iff (n : Nibble) : n.setWidth 8 = (0 : Byte) ↔ n = 0 := by
  bv_omega

/-- The three cells of an instruction, one after the other, are its whole effect (R36, R99). -/
theorem cell5_cell4_cell3 (i : Instr) (s : State) :
    cell5 i (cell4 i (cell3 i s)) = cycleEffect i s := by
  cases i with
  | sub n =>
    have hz : decide (s.a - memRead s n.toNat = 0) = decide (s.a = memRead s n.toNat) :=
      decide_eq_decide.mpr sub_eq_zero
    exact congrArg (State.setZ (cycleEffect (.sub n) s)) hz
  | ldi n =>
    exact congrArg (State.setZ (cycleEffect (.ldi n) s))
      (decide_eq_decide.mpr (setWidth_byte_eq_zero_iff n))
  | _ => rfl

/-- Phase 3 halts the machine for HLT alone. -/
theorem cell3_halted {i : Instr} {s : State} (hh : s.halted = false) (hi : ∀ n, i ≠ .hlt n) :
    (cell3 i s).halted = false := by
  refine Bool.eq_false_of_not_eq_true fun h => ?_
  obtain habs | ⟨-, n, hn⟩ := (phaseEffect_halted_iff .execute3 i s).mp h
  · simp [hh] at habs
  · exact hi n hn

/-- The execute phases of an instruction leave its whole effect (R97); HLT has it in phase 3, and the
two gated Steps after it are dashes (R91). -/
theorem iterate_three_nextState_of_execute3 {s : State} {i : Instr} (hh : s.halted = false)
    (hp : s.clockCycle = .execute3) (hi : decode s.ir = i) :
    nextState^[3] s = (cycleEffect i s).setClock .addressSetup := by
  by_cases hhlt : ∃ n, i = .hlt n
  · obtain ⟨n, rfl⟩ := hhlt
    calc nextState^[3] s
        = nextState^[2] ((cell3 (.hlt n) s).setClock .execute4) :=
          congrArg nextState^[2] (nextState_of_phase .execute3 (.hlt n) hh hp hi)
      _ = _ := iterate_nextState_halted rfl 2
  · have hh3 : (cell3 i s).halted = false := cell3_halted hh (not_exists.mp hhlt)
    have hi3 : decode (cell3 i s).ir = i := by rw [cell3_ir, hi]
    calc nextState^[3] s
        = nextState^[2] ((cell3 i s).setClock .execute4) :=
          congrArg nextState^[2] (nextState_of_phase .execute3 i hh hp hi)
      _ = nextState ((cell4 i ((cell3 i s).setClock .execute4)).setClock .execute5) :=
          congrArg nextState (nextState_of_phase .execute4 i hh3 rfl hi3)
      _ = nextState ((cell4 i (cell3 i s)).setClock .execute5) := by rw [cell4_setClock]; rfl
      _ = (cell5 i ((cell4 i (cell3 i s)).setClock .execute5)).setClock .addressSetup :=
          nextState_of_phase .execute5 i ((cell4_halted i _).trans hh3) rfl
            (by rw [State.setClock_ir, cell4_ir, hi3])
      _ = (cycleEffect i s).setClock .addressSetup := by
          rw [cell5_setClock, cell5_cell4_cell3]; rfl

/-- Six Steps from the start of a cycle: the fetch, then the effect (R97). -/
theorem iterate_six_nextState_of_atBoundary {s : State} (h : AtBoundary s) :
    nextState^[6] s = instructionCycle s := by
  obtain ⟨hh, hp⟩ := h
  rw [Function.iterate_add_apply _ 3 3, iterate_three_nextState_of_atBoundary ⟨hh, hp⟩,
    iterate_three_nextState_of_execute3 (i := instrAtPc s), ← cycleEffect_setClock, ← hp]
  · rfl
  · exact hh
  · rfl
  · rfl

/-- Settles O40, from the fetch and the three cells of each instruction. -/
theorem sixStepsAreOneInstructionCycle : Obligations.SixStepsAreOneInstructionCycle :=
  fun s h => (steps_eq 6 s).trans (congrArg _ (iterate_six_nextState_of_atBoundary h))

/-! ### How long a program runs to its HLT -/

/-- A cycle of any instruction but HLT ends where the next one begins (R97). -/
theorem atBoundary_iterate_six {s : State} (h : AtBoundary s) (hi : ∀ n, instrAtPc s ≠ .hlt n) :
    AtBoundary (nextState^[6] s) := by
  rw [iterate_six_nextState_of_atBoundary h, instructionCycle]
  generalize instrAtPc s = i at hi
  cases i with
  | hlt n => exact absurd rfl (hi n)
  | _ => exact h

/-- `k` cycles that meet no HLT end where the next one begins. -/
theorem atBoundary_iterate_cycles {s : State} (h : AtBoundary s) (k : Nat)
    (hi : ∀ j < k, ∀ n, instrAtPc (nextState^[6 * j] s) ≠ .hlt n) :
    AtBoundary (nextState^[6 * k] s) := by
  induction k with
  | zero => exact h
  | succ k ih =>
    rw [Nat.mul_succ, Nat.add_comm, Function.iterate_add_apply]
    exact atBoundary_iterate_six (ih fun j hj => hi j (by omega)) (hi k (by omega))

/-- A machine that runs after `n` Steps was running after any fewer (R29). -/
theorem running_iterate_of_le {s : State} {m n : Nat} (hmn : m ≤ n)
    (h : (nextState^[n] s).halted = false) : (nextState^[m] s).halted = false := by
  refine Bool.eq_false_of_not_eq_true fun hm => ?_
  rw [← Nat.sub_add_cancel hmn, Function.iterate_add_apply, iterate_nextState_halted hm] at h
  simp [hm] at h

/-- Run takes one Step of a running machine and goes on with the rest of its budget (R173). -/
theorem run_succ_of_running {s : State} (h : s.halted = false) (n : Nat) :
    run (n + 1) s = run n (nextState s) := by
  simp [run, h, step_eq]

/-- Run with enough budget stops at the first halted state (R173, R181). -/
theorem run_of_first_halt {s : State} {n budget : Nat} (hle : n ≤ budget)
    (hrun : ∀ m < n, (nextState^[m] s).halted = false) (hhalt : (nextState^[n] s).halted = true) :
    run budget s = .next (nextState^[n] s) := by
  induction n generalizing s budget with
  | zero => exact run_halted hhalt budget
  | succ n ih =>
    obtain ⟨b, rfl⟩ : ∃ b, budget = b + 1 := ⟨budget - 1, by omega⟩
    have hs : s.halted = false := hrun 0 (by omega)
    rw [run_succ_of_running hs]
    exact ih (by omega) (fun m hm => hrun (m + 1) (by omega)) hhalt

/-- The fetch of a HLT and its phase 3 halt the machine, and the fetch does not (R141). -/
theorem iterate_nextState_halted_of_hlt {s : State} {n : Nibble} (h : AtBoundary s)
    (hi : instrAtPc s = .hlt n) :
    (nextState^[3] s).halted = false ∧ (nextState^[4] s).halted = true := by
  have hfetch := iterate_three_nextState_of_atBoundary h
  rw [Function.iterate_succ_apply' nextState 3, nextState_halted_iff, hfetch]
  exact ⟨h.1, .inr ⟨rfl, n, hi⟩⟩

/-- Settles O46: `k` cycles lead to a boundary with a HLT at PC, whose Step of phase 3 is the first
to halt. -/
theorem programHaltsAfterSixStepsAnInstructionPlusFour :
    Obligations.ProgramHaltsAfterSixStepsAnInstructionPlusFour := by
  rintro k s h hcycles ⟨t, n, ht, hi⟩
  simp only [steps_eq, Host.Outcome.next.injEq, exists_eq_left'] at hcycles ht ⊢
  subst ht
  obtain ⟨hfetched, hhalt⟩ :=
    iterate_nextState_halted_of_hlt (atBoundary_iterate_cycles h k hcycles) hi
  rw [← Function.iterate_add_apply, Nat.add_comm] at hfetched hhalt
  have hbefore : ∀ m < 6 * k + 4, (nextState^[m] s).halted = false := fun m hm =>
    running_iterate_of_le (by omega) hfetched
  exact ⟨hhalt, hbefore, fun budget hb => run_of_first_halt hb hbefore hhalt⟩

end Sys2Proof.Machine

/-!
SUPPORT and PROOFS for 41_load_store. Each result is the opcode map's row and the three cells of the
instruction; each frame is one equation, the final state as the initial one with the written fields
replaced, from which every unchanged field is read off.
-/

namespace Sys2Proof.Machine

/-- Execute in phase 4 is the cell of phase 4. -/
theorem exec_of_execute4 (i : Instr) {s : State} (hp : s.clockCycle = .execute4) :
    exec i s = .next (cell4 i s) := by
  rw [exec_eq, cellState, hp]

/-- Execute in phase 5 is the cell of phase 5. -/
theorem exec_of_execute5 (i : Instr) {s : State} (hp : s.clockCycle = .execute5) :
    exec i s = .next (cell5 i s) := by
  rw [exec_eq, cellState, hp]

/-- MemWrite changes the one cell it writes and nothing else (R52). -/
theorem storedOnly_memWrite (s : State) (addr : Nat) (v : Byte) :
    StoredOnly s (memWrite s addr v) addr v := by
  refine ⟨rfl, ?_, fun other h => ?_⟩
  · rw [memRead_memWrite, if_pos rfl]
  · rw [memRead_memWrite, if_neg h]

/-! ### What each phase of LDA and STA does -/

/-- Settles O13: row 0x0 of the opcode map, and the three cells of LDA. -/
theorem ldaLoadsAccumulatorAndZeroFlag : Obligations.LdaLoadsAccumulatorAndZeroFlag := fun n _ =>
  ⟨decode_append_zero_add_setWidth 0x0 n, exec_of_execute3 (.lda n), exec_of_execute4 (.lda n),
    exec_of_execute5 (.lda n)⟩

/-- Settles O14: row 0x3 of the opcode map, and the cells of STA, that of phase 4 a MemWrite. -/
theorem staStoresAccumulatorAtMar : Obligations.StaStoresAccumulatorAtMar := fun n s =>
  ⟨decode_append_zero_add_setWidth 0x3 n, exec_of_execute3 (.sta n),
    fun hp => ⟨memWrite s s.mar.toNat s.a, exec_of_execute4 (.sta n) hp,
      storedOnly_memWrite s s.mar.toNat s.a⟩,
    exec_of_execute5 (.sta n)⟩

/-! ### Frames -/

/-- LDA writes at most MAR, A and Z (R110). -/
theorem exec_lda_frame {n : Nibble} {s t : State} (h : exec (.lda n) s = .next t) :
    t = { s with mar := t.mar, a := t.a, z := t.z } := by
  obtain ⟨-, rfl⟩ | ⟨-, rfl⟩ | ⟨-, rfl⟩ | rfl := exec_cases h <;> rfl

/-- LDI writes at most A and Z (R112). -/
theorem exec_ldi_frame {n : Nibble} {s t : State} (h : exec (.ldi n) s = .next t) :
    t = { s with a := t.a, z := t.z } := by
  obtain ⟨-, rfl⟩ | ⟨-, rfl⟩ | ⟨-, rfl⟩ | rfl := exec_cases h <;> rfl

/-- STA writes at most MAR and the memory (R111). -/
theorem exec_sta_frame {n : Nibble} {s t : State} (h : exec (.sta n) s = .next t) :
    t = { s with mar := t.mar, memory := t.memory } := by
  obtain ⟨-, rfl⟩ | ⟨-, rfl⟩ | ⟨-, rfl⟩ | rfl := exec_cases h <;> rfl

/-- Settles O24: the fields that the frames of LDA and LDI do not replace. -/
theorem loadFrame : Obligations.LoadFrame := by
  refine ⟨fun n s t h => ?_, fun n s t h => ?_⟩
  · rw [exec_lda_frame h]
    exact ⟨rfl, rfl, rfl, rfl, rfl, rfl, rfl, fun _ => rfl⟩
  · rw [exec_ldi_frame h]
    exact ⟨rfl, rfl, rfl, rfl, rfl, rfl, rfl, rfl, fun _ => rfl⟩

/-- STA latches its address in phase 3 alone (R111). -/
theorem exec_sta_mar {n : Nibble} {s t : State} (h : exec (.sta n) s = .next t)
    (hp : s.clockCycle ≠ .execute3) : t.mar = s.mar := by
  obtain ⟨hp3, -⟩ | ⟨-, rfl⟩ | ⟨-, rfl⟩ | rfl := exec_cases h
  · exact absurd hp3 hp
  · rfl
  · rfl
  · rfl

/-- STA writes memory in phase 4 alone (R111). -/
theorem exec_sta_memory {n : Nibble} {s t : State} (h : exec (.sta n) s = .next t)
    (hp : s.clockCycle ≠ .execute4) : t.memory = s.memory := by
  obtain ⟨-, rfl⟩ | ⟨hp4, -⟩ | ⟨-, rfl⟩ | rfl := exec_cases h
  · rfl
  · exact absurd hp4 hp
  · rfl
  · rfl

/-- STA stores A in the cell at MAR in phase 4, and changes nothing else then (R111). -/
theorem exec_sta_storedOnly {n : Nibble} {s t : State} (h : exec (.sta n) s = .next t)
    (hp : s.clockCycle = .execute4) : StoredOnly s t s.mar.toNat s.a := by
  rw [exec_of_execute4 _ hp] at h
  cases h
  exact storedOnly_memWrite s s.mar.toNat s.a

/-- Settles O26: one phase from the frame equation and the two phases that write, a whole cycle from
its one MemWrite at the operand. -/
theorem storeFrame : Obligations.StoreFrame := by
  refine ⟨fun n s t h => ?_, fun n s h hi => ?_⟩
  · have hmar := exec_sta_mar h
    have hkept : s.clockCycle ≠ .execute4 → ∀ addr, memRead t addr = memRead s addr :=
      fun hp => memRead_congr (exec_sta_memory h hp)
    have hother : s.clockCycle = .execute4 →
        ∀ addr, addr % 16 ≠ s.mar.toNat → memRead t addr = memRead s addr := by
      intro hp addr haddr
      obtain ⟨-, -, hother⟩ := exec_sta_storedOnly h hp
      exact hother addr (by rwa [addr_mod])
    rw [exec_sta_frame h]
    exact ⟨rfl, rfl, rfl, rfl, rfl, rfl, rfl, rfl, rfl, hmar, hkept, hother⟩
  · obtain ⟨-, hstored, hother⟩ := storedOnly_memWrite s n.toNat s.a
    refine ⟨nextState^[6] s, steps_eq 6 s, ?_⟩
    rw [iterate_six_nextState_of_sta h hi]
    exact ⟨rfl, rfl, rfl, rfl, rfl, rfl, hstored, fun addr haddr =>
      hother addr (by rwa [addr_mod])⟩

end Sys2Proof.Machine

/-!
SUPPORT and PROOFS for 42_arithmetic. The 8-bit results of ADD and SUB against the exact numbers, said
once for words: C stands for the 256 by which a result differs from the exact one. What each
statement says of phase 5 is the cell of phase 5 read through these lemmas.
-/

namespace Sys2Proof.Machine

/-! ### The 8-bit results and the exact numbers -/

/-- The carry and the 8-bit sum together are the exact sum (R120). -/
theorem toNat_add_carry (x y : Byte) :
    (x + y).toNat + (if 255 < x.toNat + y.toNat then 256 else 0) = x.toNat + y.toNat := by
  have hx := x.isLt
  have hy := y.isLt
  rw [BitVec.toNat_add]
  split <;> omega

/-- The 8-bit difference is the exact one with the borrowed 256 added (R121). -/
theorem toNat_sub_borrow (x y : Byte) :
    (x - y).toNat + y.toNat = x.toNat + (if x.toNat < y.toNat then 256 else 0) := by
  have hx := x.isLt
  have hy := y.isLt
  rw [BitVec.toNat_sub]
  split <;> omega

/-- The difference of R121 as a non-negative remainder of the exact difference (R7). -/
theorem toNat_sub_eq_emod (x y : Byte) :
    ((x - y).toNat : Int) = ((x.toNat : Int) - y.toNat) % 256 := by
  have hlt := (x - y).isLt
  have hborrow := toNat_sub_borrow x y
  split at hborrow <;> omega

/-- The zero test of ADD, on the exact sum (R120). -/
theorem add_eq_zero_iff_mod (x y : Byte) : x + y = 0 ↔ (x.toNat + y.toNat) % 256 = 0 := by
  rw [← BitVec.toNat_inj, BitVec.toNat_add]
  rfl

/-- Of the exact sums, 256 alone carries and leaves 0 (R122, R123). -/
theorem carry_and_add_eq_zero_iff (x y : Byte) :
    (255 < x.toNat + y.toNat ∧ x + y = 0) ↔ x.toNat + y.toNat = 256 := by
  have hx := x.isLt
  have hy := y.isLt
  rw [add_eq_zero_iff_mod]
  omega

/-! ### What each phase of ADD and SUB does -/

/-- Settles O16: row 0x1 of the opcode map, and the three cells of ADD, the last one's zero test
on the exact sum. -/
theorem addWritesSumCarryAndZero : Obligations.AddWritesSumCarryAndZero := by
  refine fun n s => ⟨decode_append_zero_add_setWidth 0x1 n, exec_of_execute3 (.add n),
    exec_of_execute4 (.add n), fun hp => ⟨s.a + s.b, BitVec.toNat_add s.a s.b, ?_⟩⟩
  simp only [exec_of_execute5 _ hp, cell5, add_eq_zero_iff_mod, gt_iff_lt]

/-- Settles O17: row 0x2 of the opcode map, and the three cells of SUB. -/
theorem subWritesDifferenceBorrowAndZero : Obligations.SubWritesDifferenceBorrowAndZero :=
  fun n s => ⟨decode_append_zero_add_setWidth 0x2 n, exec_of_execute3 (.sub n),
    exec_of_execute4 (.sub n), fun hp =>
      ⟨s.a - s.b, toNat_sub_eq_emod s.a s.b, sub_eq_zero, exec_of_execute5 (.sub n) hp⟩⟩

/-! ### Frame -/

/-- ADD and SUB write at most MAR, B, A, C and Z (R120, R121). -/
theorem exec_add_or_sub_frame {n : Nibble} {i : Instr} {s t : State}
    (hi : i = .add n ∨ i = .sub n) (h : exec i s = .next t) :
    t = { s with mar := t.mar, b := t.b, a := t.a, c := t.c, z := t.z } := by
  obtain rfl | rfl := hi <;>
    obtain ⟨-, rfl⟩ | ⟨-, rfl⟩ | ⟨-, rfl⟩ | rfl := exec_cases h <;> rfl

/-- Settles O25: the fields that the frame does not replace. -/
theorem arithmeticFrame : Obligations.ArithmeticFrame := by
  intro n i s t hi h
  rw [exec_add_or_sub_frame hi h]
  exact ⟨rfl, rfl, rfl, rfl, rfl, fun _ => rfl⟩

/-! ### The flags -/

/-- Settles O33: on a running machine the phases split over the instructions where a cell writes Z;
255 + 1 is the cell of phase 5 of ADD at these operands. -/
theorem zeroFlagFollowsTheFourWritersOfA : Obligations.ZeroFlagFollowsTheFourWritersOfA := by
  refine ⟨fun s => ⟨nextState s, step_eq s, ?_⟩, fun n s hp ha hb =>
    ⟨cell5 (.add n) s, exec_of_execute5 (.add n) hp, ?_⟩⟩
  · cases hh : s.halted with
    | true => rw [nextState_halted hh]; rfl
    | false =>
      rw [nextState_running hh, advanceClock_z, advanceClock_a]
      generalize decode s.ir = i
      cases s.clockCycle with
      | addressSetup | pcIncrement | fetch => rfl
      | execute3 | execute4 | execute5 => cases i <;> rfl
  · simp only [cell5, ha, hb]
    decide

/-- Settles O39: the flags in phase 5 as comparisons of the exact operands, and the results with
their carry or borrow. -/
theorem flagsAfterSubAndAddCompareUnsigned : Obligations.FlagsAfterSubAndAddCompareUnsigned := by
  refine ⟨fun n s hp => ⟨cell5 (.sub n) s, exec_of_execute5 (.sub n) hp, ?_⟩,
    fun n s hp => ⟨cell5 (.add n) s, exec_of_execute5 (.add n) hp, ?_⟩⟩
  · have hc : (cell5 (.sub n) s).c = true ↔ s.a.toNat < s.b.toNat := decide_eq_true_iff
    have hz : (cell5 (.sub n) s).z = true ↔ s.a.toNat = s.b.toNat :=
      decide_eq_true_iff.trans (sub_eq_zero.trans BitVec.toNat_inj.symm)
    refine ⟨hc, hz, ?_, ?_, ?_⟩
    · rw [← Bool.not_eq_true, ← Bool.not_eq_true, hc, hz]
      omega
    · rw [hc, hz]
      omega
    · simp only [hc]
      exact toNat_sub_borrow s.a s.b
  · have hc : (cell5 (.add n) s).c = true ↔ 255 < s.a.toNat + s.b.toNat := decide_eq_true_iff
    have hz : (cell5 (.add n) s).z = true ↔ s.a + s.b = 0 := decide_eq_true_iff
    refine ⟨?_, ?_⟩
    · simp only [hc]
      exact toNat_add_carry s.a s.b
    · rw [hc, hz]
      exact carry_and_add_eq_zero_iff s.a s.b

end Sys2Proof.Machine

/-!
SUPPORT and PROOFS for 43_control_transfer. Of the execute phases phase 3 alone writes PC, and there
the jumps alone; so PC after phase 3 is one function of the instruction and the state at the start
of its cycle, and the next fetch is the fetch of any cycle, from that PC.
-/

namespace Sys2Proof.Machine

/-! ### What each phase of the jumps does -/

/-- Settles O18: row 0x5 of the opcode map, and the three cells of JMP. -/
theorem jmpWritesPc : Obligations.JmpWritesPc := fun n _ =>
  ⟨decode_append_zero_add_setWidth 0x5 n, exec_of_execute3 (.jmp n), exec_of_execute4 (.jmp n),
    exec_of_execute5 (.jmp n)⟩

/-- Settles O19: row 0x6 of the opcode map, and the three cells of JZ. -/
theorem jzWritesPcIfZero : Obligations.JzWritesPcIfZero := fun n _ =>
  ⟨decode_append_zero_add_setWidth 0x6 n, exec_of_execute3 (.jz n), exec_of_execute4 (.jz n),
    exec_of_execute5 (.jz n)⟩

/-- Settles O20: row 0x7 of the opcode map, and the three cells of JC. -/
theorem jcWritesPcIfCarry : Obligations.JcWritesPcIfCarry := fun n _ =>
  ⟨decode_append_zero_add_setWidth 0x7 n, exec_of_execute3 (.jc n), exec_of_execute4 (.jc n),
    exec_of_execute5 (.jc n)⟩

/-! ### Frame -/

/-- The jumps write at most PC (R130 to R132). -/
theorem exec_jump_frame {n : Nibble} {i : Instr} {s t : State}
    (hi : i = .jmp n ∨ i = .jz n ∨ i = .jc n) (h : exec i s = .next t) :
    t = { s with pc := t.pc } := by
  obtain rfl | rfl | rfl := hi <;>
    obtain ⟨-, rfl⟩ | ⟨-, rfl⟩ | ⟨-, rfl⟩ | rfl := exec_cases h <;> rfl

/-- Settles O27: the fields that the frame does not replace. -/
theorem jumpFrame : Obligations.JumpFrame := by
  intro n i s t hi h
  rw [exec_jump_frame hi h]
  exact ⟨rfl, rfl, rfl, rfl, rfl, rfl, rfl, rfl, rfl, fun _ => rfl⟩

/-! ### Which Steps write PC -/

/-- Phases 1 and 3 alone write PC (R23). -/
theorem nextState_pc_of_other_phase {s : State} (h1 : s.clockCycle ≠ .pcIncrement)
    (h3 : s.clockCycle ≠ .execute3) : (nextState s).pc = s.pc := by
  have hbody : (phaseEffect s.clockCycle (decode s.ir) s).pc = s.pc := by
    cases hp : s.clockCycle with
    | addressSetup | fetch => rfl
    | pcIncrement => exact absurd hp h1
    | execute3 => exact absurd hp h3
    | execute4 => exact cell4_pc _ s
    | execute5 => exact cell5_pc _ s
  exact (nextState_part State.pc advanceClock_pc hbody).trans (ite_self _)

/-- Phase 3 changes PC for a jump alone, and to its target (R133). -/
theorem jump_of_cell3_pc_ne {i : Instr} {s : State} (h : (cell3 i s).pc ≠ s.pc) :
    ∃ n, (cell3 i s).pc = n ∧ (i = .jmp n ∨ i = .jz n ∨ i = .jc n) := by
  cases i with
  | jmp n => exact ⟨n, rfl, .inl rfl⟩
  | jz n => exact ⟨n, if_pos (ite_ne_right_iff.mp h).1, .inr (.inl rfl)⟩
  | jc n => exact ⟨n, if_pos (ite_ne_right_iff.mp h).1, .inr (.inr rfl)⟩
  | _ => exact absurd rfl h

/-- The execute phase that changes PC is phase 3 of a jump (R133). -/
theorem jump_of_nextState_pc_ne {s : State} (h : Executing s) (hpc : (nextState s).pc ≠ s.pc) :
    s.clockCycle = .execute3 ∧ ∃ n, (nextState s).pc = n ∧
      (decode s.ir = .jmp n ∨ decode s.ir = .jz n ∨ decode s.ir = .jc n) := by
  obtain ⟨hh, hp⟩ := h
  have h1 : s.clockCycle ≠ .pcIncrement := by
    obtain hp | hp | hp := hp <;> simp [hp]
  have h3 : s.clockCycle = .execute3 := by
    by_contra h3
    exact hpc (nextState_pc_of_other_phase h1 h3)
  rw [nextState_of_phase .execute3 _ hh h3 rfl] at hpc ⊢
  exact ⟨h3, jump_of_cell3_pc_ne hpc⟩

/-! ### A jump and the fetch after it -/

/-- The cycle of a jump, as one update: PC is the target or the successor, and else only the fetch
has written (R133). -/
theorem instructionCycle_of_jump {s : State} {n : Nibble} {taken : Bool}
    (hi : (instrAtPc s = .jmp n ∧ taken = true) ∨ (instrAtPc s = .jz n ∧ taken = s.z) ∨
      (instrAtPc s = .jc n ∧ taken = s.c)) :
    instructionCycle s =
      { s with
        mar := s.pc
        ir := memRead s s.pc.toNat
        pc := if taken then n else s.pc + 1 } := by
  obtain ⟨hi, rfl⟩ | ⟨hi, rfl⟩ | ⟨hi, rfl⟩ := hi <;> rw [instructionCycle, hi] <;> rfl

/-- The fetch phases after a cycle that ends at a boundary are the fetch from the PC there (R97). -/
theorem iterate_nine_nextState_of_atBoundary {s t : State} (ht : nextState^[6] s = t)
    (h : AtBoundary t) :
    nextState^[9] s =
      { t with
        mar := t.pc
        pc := t.pc + 1
        ir := memRead t t.pc.toNat
        clockCycle := .execute3 } := by
  rw [Function.iterate_add_apply _ 3 6, ht, iterate_three_nextState_of_atBoundary h]

/-- Settles O41: the cycle of the jump and the fetch after it; and the one execute phase that writes
PC. -/
theorem jumpContinuesAtItsTargetWithoutDelay :
    Obligations.JumpContinuesAtItsTargetWithoutDelay := by
  refine ⟨fun s n taken h hi => ?_, fun s t h hstep hpc => ?_⟩
  · have hcycle :=
      (iterate_six_nextState_of_atBoundary h).trans (instructionCycle_of_jump hi)
    exact ⟨if taken then n else s.pc + 1, rfl, (steps_eq 6 s).trans (congrArg _ hcycle),
      (steps_eq 9 s).trans (congrArg _ (iterate_nine_nextState_of_atBoundary hcycle h))⟩
  · rw [step_eq] at hstep
    cases hstep
    exact jump_of_nextState_pc_ne h hpc

/-! ### PC during a cycle -/

/-- The PC that instruction `i` leaves when its cycle starts in `s`: the target of a taken jump, and
else the sequential successor (R134). -/
def pcAfter (i : Instr) (s : State) : Addr :=
  match i with
  | .jmp n => n
  | .jz n => if s.z then n else s.pc + 1
  | .jc n => if s.c then n else s.pc + 1
  | _ => s.pc + 1

/-- The fetch and phase 3 leave that PC (R134). -/
theorem iterate_four_nextState_pc {s : State} (h : AtBoundary s) :
    (nextState^[4] s).pc = pcAfter (instrAtPc s) s := by
  rw [Function.iterate_succ_apply' nextState 3, iterate_three_nextState_of_atBoundary h,
    nextState_of_phase .execute3 (instrAtPc s)]
  · cases instrAtPc s <;> rfl
  · exact h.1
  · rfl
  · rfl

/-- From phase 1 on PC is the successor, and from phase 3 on the PC that the instruction leaves
(R134). -/
theorem iterate_nextState_pc {s : State} (h : AtBoundary s) {k : Nat} (hlo : 2 ≤ k)
    (hhi : k ≤ 6) :
    (nextState^[k] s).pc = if 4 ≤ k then pcAfter (instrAtPc s) s else s.pc + 1 := by
  have hkept : ∀ m, nextPhase^[m] .addressSetup ≠ .pcIncrement →
      nextPhase^[m] .addressSetup ≠ .execute3 →
      (nextState^[m + 1] s).pc = (nextState^[m] s).pc := by
    intro m h1 h3
    rw [← h.2, ← iterate_nextState_clockCycle] at h1 h3
    rw [Function.iterate_succ_apply']
    exact nextState_pc_of_other_phase h1 h3
  have h3 : (nextState^[3] s).pc = s.pc + 1 := by rw [iterate_three_nextState_of_atBoundary h]
  have h2 : (nextState^[2] s).pc = s.pc + 1 := (hkept 2 (by decide) (by decide)).symm.trans h3
  have h4 := iterate_four_nextState_pc h
  have h5 := (hkept 4 (by decide) (by decide)).trans h4
  have h6 := (hkept 5 (by decide) (by decide)).trans h5
  interval_cases k
  exacts [h2, h3, h4, h5, h6]

/-- Settles O42: PC along the cycle, read off for each jump; and the fetch after a cycle that does
not halt. -/
theorem pcHoldsSuccessorOrTakenTarget : Obligations.PcHoldsSuccessorOrTakenTarget := by
  refine fun s h => ⟨fun k hlo hhi => ⟨nextState^[k] s, steps_eq k s, ?_⟩, fun hi => ?_⟩
  · have hsucc : (s.pc + 1).toNat = (s.pc.toNat + 1) % 16 := BitVec.toNat_add s.pc 1
    rw [iterate_nextState_pc h hlo hhi]
    cases instrAtPc s with
    | jmp n => simp only [pcAfter, apply_ite BitVec.toNat, hsucc]
    | jz n | jc n => simp only [pcAfter, ite_and, apply_ite BitVec.toNat, hsucc]
    | _ => simp only [pcAfter, ite_self, hsucc]
  · have ht := atBoundary_iterate_six h hi
    have hfetch := iterate_nine_nextState_of_atBoundary rfl ht
    exact ⟨nextState^[6] s, nextState^[9] s, steps_eq 6 s, ht, steps_eq 9 s, by rw [hfetch],
      by rw [hfetch]⟩

end Sys2Proof.Machine

/-!
SUPPORT and PROOFS for 70_reset_and_hazards: LoadProgram and Boot (R172, R175, R176). LoadProgram is
an operation on the memory alone, so that it commutes with whatever replaces the other fields, and
each cell that it leaves is a byte of the image or the old content.
-/

namespace Sys2Proof.Machine

/-! ### What LoadProgram does -/

/-- The loop reads no field but the memory and writes no other: on a state `t` that has the memory
of `s` it leaves `t` with the memory that it leaves on `s` (R172). -/
theorem loadFrom_setMemory (i : Nat) (bytes : Image) (s t : State) :
    loadFrom i bytes (t.setMemory s.memory) = t.setMemory (loadFrom i bytes s).memory := by
  induction bytes generalizing i s with
  | nil => rfl
  | cons v rest ih =>
    by_cases hi : i < Config.memoryCells
    · simp only [loadFrom, if_pos hi]
      exact ih (i + 1) (memWrite s i v)
    · simp only [loadFrom, if_neg hi]

/-- The loop from cell `i` on leaves the cells before `i`, and puts the image over the others
(R172). -/
theorem memRead_loadFrom (i : Nat) (bytes : Image) (s : State) {addr : Nat} (h : addr < 16) :
    memRead (loadFrom i bytes s) addr =
      if addr < i then memRead s addr else bytes.getD (addr - i) (memRead s addr) := by
  induction bytes generalizing i s with
  | nil => simp [loadFrom]
  | cons v rest ih =>
    by_cases hi : i < 16
    · simp only [loadFrom, if_pos hi, ih, memRead_memWrite, Nat.mod_eq_of_lt h,
        Nat.mod_eq_of_lt hi]
      obtain hlt | rfl | hgt := Nat.lt_trichotomy addr i
      · rw [if_pos (by omega), if_neg (by omega), if_pos hlt]
      · simp
      · have hsucc : addr - i = addr - (i + 1) + 1 := by omega
        rw [if_neg (by omega), if_neg (by omega), if_neg (by omega), hsucc, List.getD_cons_succ]
    · simp only [loadFrom, if_neg hi]
      rw [if_pos (by omega)]

/-- A cell after LoadProgram is the byte of the image, and past its end the old content (R172). -/
theorem memRead_loadProgram (bytes : Image) (s : State) {addr : Nat} (h : addr < 16) :
    memRead (loadProgram bytes s) addr = bytes.getD addr (memRead s addr) :=
  memRead_loadFrom 0 bytes s h

/-- Settles O50: Reset replaces every field but the memory, and LoadProgram commutes with that. -/
theorem resetAndLoadProgramCommute : Obligations.ResetAndLoadProgramCommute := fun bytes s =>
  (loadFrom_setMemory 0 bytes s State.reset).symm

/-! ### The booted machine -/

/-- A booted machine is the reset one but for its memory (R175). -/
theorem boot_eq (image : Image) : boot image = State.reset.setMemory (boot image).memory :=
  loadFrom_setMemory 0 image State.reset State.reset

/-- A booted machine is at the start of an instruction cycle (R176). -/
theorem atBoundary_boot (image : Image) : AtBoundary (boot image) := by
  rw [boot_eq]
  exact ⟨rfl, rfl⟩

/-- A booted machine holds the image over zeros (R175). -/
theorem memRead_boot (image : Image) {addr : Nat} (h : addr < 16) :
    memRead (boot image) addr = image.getD addr 0x00 :=
  memRead_loadProgram image State.reset h

/-- The fetch of a booted machine, as one update (R176). -/
theorem iterate_three_nextState_boot (image : Image) :
    nextState^[3] (boot image) =
      { boot image with mar := 0, pc := 1, ir := image.getD 0 0x00, clockCycle := .execute3 } := by
  have hpc : (boot image).pc = 0 := by rw [boot_eq]; rfl
  have hcell : memRead (boot image) (0 : Addr).toNat = image.getD 0 0x00 :=
    memRead_boot image (by decide)
  rw [iterate_three_nextState_of_atBoundary (atBoundary_boot image), hpc, hcell]
  rfl

/-- Settles O51: the booted state, its cells, and its fetch; A, Z and C are still those of Reset. -/
theorem bootedMachineStartsAtCellZero : Obligations.BootedMachineStartsAtCellZero := by
  intro image
  refine ⟨atBoundary_boot image, fun i hi => memRead_boot image hi, nextState^[3] (boot image),
    steps_eq 3 (boot image), ?_⟩
  rw [iterate_three_nextState_boot, boot_eq]
  exact ⟨rfl, rfl, rfl, rfl, rfl, rfl, rfl⟩

end Sys2Proof.Machine

/-!
SUPPORT and PROOFS for the statements that cross the sections: the immediate and the ignored operand
(R73, R76, R112, R140, R141), and the host's operations (R170 to R174, R180). Run is the iteration
of one total function, a Step behind a halt test, and all that is said of Run is said through it.
-/

namespace Sys2Proof.Machine

/-! ### What each phase of LDI, OUT and HLT does -/

/-- Settles O15: row 0x4 of the opcode map, and the three cells of LDI, the first one's zero test on
the operand before it is widened. -/
theorem ldiLoadsZeroExtendedImmediate : Obligations.LdiLoadsZeroExtendedImmediate := by
  refine fun n s => ⟨decode_append_zero_add_setWidth 0x4 n, fun hp => ⟨n.setWidth 8, ?_, ?_⟩,
    exec_of_execute4 (.ldi n), exec_of_execute5 (.ldi n)⟩
  · exact BitVec.toNat_setWidth_of_le (by decide)
  · have hz : n.setWidth 8 = (0 : Byte) ↔ n.toNat = 0 :=
      (setWidth_byte_eq_zero_iff n).trans BitVec.toNat_inj.symm
    simp only [exec_of_execute3 _ hp, cell3, hz]

/-- Settles O21: row 0x8 of the opcode map, and the three cells of OUT. -/
theorem outCopiesAccumulatorToOut : Obligations.OutCopiesAccumulatorToOut := fun n _ =>
  ⟨decode_append_zero_add_setWidth 0x8 n, exec_of_execute3 (.out n), exec_of_execute4 (.out n),
    exec_of_execute5 (.out n)⟩

/-- Settles O22: row 0x9 of the opcode map, and the cell of phase 3 of HLT. -/
theorem hltSetsHalted : Obligations.HltSetsHalted := fun n _ =>
  ⟨decode_append_zero_add_setWidth 0x9 n, exec_of_execute3 (.hlt n)⟩

/-! ### The ignored operand -/

/-- The opcode of a decoded word, as a number (R72). -/
theorem toNat_opcodeOf_decode (w : Byte) : (opcodeOf (decode w)).toNat = w.toNat / 16 := by
  rw [decode, opcodeOf_instrOfFields]
  exact toNat_highNibble w

/-- An instruction is the row of its opcode in the opcode map (R74). -/
theorem eq_instrOfFields_of_opcode {i : Instr} (op : Nibble)
    (h : (opcodeOf i).toNat = op.toNat) : i = instrOfFields op (operandOf i) := by
  rw [← BitVec.eq_of_toNat_eq h, instrOfFields_opcodeOf_operandOf]

/-- No phase of OUT reads the operand (R73). -/
theorem phaseEffect_out_operand (p : Phase) (n n' : Nibble) (s : State) :
    phaseEffect p (.out n) s = phaseEffect p (.out n') s := by
  cases p <;> rfl

/-- No phase of HLT reads the operand (R73). -/
theorem phaseEffect_hlt_operand (p : Phase) (n n' : Nibble) (s : State) :
    phaseEffect p (.hlt n) s = phaseEffect p (.hlt n') s := by
  cases p <;> rfl

/-- The undefined opcodes, whatever the operand, are one no-operation (R142). -/
theorem phaseEffect_undefined {i : Instr} (p : Phase) (s : State)
    (h : 10 ≤ (opcodeOf i).toNat) : phaseEffect p i s = phaseEffect p (.rsvdA 0) s := by
  cases i with
  | rsvdA n | rsvdB n | rsvdC n | rsvdD n | rsvdE n | rsvdF n => cases p <;> rfl
  | _ => simp [opcodeOf] at h

/-- Two instructions that are OUT, HLT or undefined alike have the same phase bodies (R76). -/
theorem phaseEffect_of_ignored_operand {i j : Instr} (p : Phase) (s : State)
    (h : ((opcodeOf i).toNat = (opcodeOf j).toNat ∧
        ((opcodeOf i).toNat = 8 ∨ (opcodeOf i).toNat = 9)) ∨
      (10 ≤ (opcodeOf i).toNat ∧ 10 ≤ (opcodeOf j).toNat)) :
    phaseEffect p i s = phaseEffect p j s := by
  obtain ⟨hij, hi | hi⟩ | ⟨hi, hj⟩ := h
  · rw [eq_instrOfFields_of_opcode 8 hi, eq_instrOfFields_of_opcode 8 (hij.symm.trans hi)]
    exact phaseEffect_out_operand p _ _ s
  · rw [eq_instrOfFields_of_opcode 9 hi, eq_instrOfFields_of_opcode 9 (hij.symm.trans hi)]
    exact phaseEffect_hlt_operand p _ _ s
  · rw [phaseEffect_undefined p s hi, phaseEffect_undefined p s hj]

theorem cell3_setIr (i : Instr) (s : State) (w : Byte) :
    cell3 i (s.setIr w) = (cell3 i s).setIr w := by
  cases i <;> rfl

theorem cell4_setIr (i : Instr) (s : State) (w : Byte) :
    cell4 i (s.setIr w) = (cell4 i s).setIr w := by
  cases i <;> rfl

theorem cell5_setIr (i : Instr) (s : State) (w : Byte) :
    cell5 i (s.setIr w) = (cell5 i s).setIr w := by
  cases i <;> rfl

/-- The Step of an execute phase reads IR to decode it, and passes it through (R95, R98). -/
theorem nextState_setIr_of_executing {s : State} (h : Executing s) (w : Byte) :
    nextState (s.setIr w) =
      (advanceClock (phaseEffect s.clockCycle (decode w) s)).setIr w := by
  obtain ⟨hh, hp⟩ := h
  rw [nextState_running (s := s.setIr w) hh, State.setIr_clockCycle, State.setIr_ir]
  obtain hp | hp | hp := hp <;> rw [hp]
  · exact congrArg advanceClock (cell3_setIr (decode w) s w)
  · exact congrArg advanceClock (cell4_setIr (decode w) s w)
  · exact congrArg advanceClock (cell5_setIr (decode w) s w)

/-- Settles O5: IR reaches the Step through the body of the decoded instruction alone, and that body
is the same for both words. -/
theorem ignoredOperandBitsHaveNoEffect : Obligations.IgnoredOperandBitsHaveNoEffect := by
  intro s w w' h hw
  simp only [← toNat_opcodeOf_decode] at hw
  refine ⟨advanceClock (phaseEffect s.clockCycle (decode w) s),
    (step_eq _).trans (congrArg _ (nextState_setIr_of_executing h w)), ?_⟩
  rw [phaseEffect_of_ignored_operand s.clockCycle s hw]
  exact (step_eq _).trans (congrArg _ (nextState_setIr_of_executing h w'))

/-! ### Run as an iterated function -/

/-- What one unit of Run's budget does: a Step, unless the machine is halted (R173). -/
def runStep (s : State) : State := if s.halted then s else nextState s

theorem runStep_halted {s : State} (h : s.halted = true) : runStep s = s := if_pos h

theorem runStep_running {s : State} (h : s.halted = false) : runStep s = nextState s := by
  simp [runStep, h]

/-- Run spends its whole budget that way, and answers the state it comes to. -/
theorem run_eq (n : Nat) (s : State) : run n s = .next (runStep^[n] s) := by
  induction n generalizing s with
  | zero => rfl
  | succ n ih =>
    rw [Function.iterate_succ_apply]
    cases h : s.halted with
    | true => rw [run_halted h, runStep_halted h, ← ih, run_halted h]
    | false => rw [run_succ_of_running h, runStep_running h, ih]

/-- A spent budget is a number of Steps, all from running states, and fewer only when they
halted the machine. -/
theorem iterate_runStep_eq_iterate_nextState (n : Nat) (s : State) :
    ∃ k ≤ n, runStep^[n] s = nextState^[k] s ∧
      (k < n → (nextState^[k] s).halted = true) ∧
      ∀ j < k, (nextState^[j] s).halted = false := by
  induction n with
  | zero => exact ⟨0, le_rfl, rfl, by simp, by simp⟩
  | succ n ih =>
    obtain ⟨k, hkn, hstate, hstopped, hrunning⟩ := ih
    rw [Function.iterate_succ_apply', hstate]
    cases hh : (nextState^[k] s).halted with
    | true => exact ⟨k, by omega, runStep_halted hh, fun _ => hh, hrunning⟩
    | false =>
      have hk : k = n := by
        by_contra hne
        simp [hstopped (by omega)] at hh
      subst hk
      refine ⟨k + 1, le_rfl, ?_, by simp, fun j hj => running_iterate_of_le (by omega) hh⟩
      rw [runStep_running hh, Function.iterate_succ_apply']

/-- Settles O53: the Steps that the budget is spent on. -/
theorem runPerformsStepsUntilHaltOrBudget : Obligations.RunPerformsStepsUntilHaltOrBudget := by
  intro n s
  obtain ⟨k, hkn, hstate, hstopped, hrunning⟩ := iterate_runStep_eq_iterate_nextState n s
  exact ⟨k, nextState^[k] s, hkn, (run_eq n s).trans (congrArg _ hstate), steps_eq k s, hstopped,
    fun j hj => ⟨nextState^[j] s, steps_eq j s, hrunning j hj⟩⟩

/-- Settles O52: iterating a sum of budgets is iterating the one after the other. -/
theorem runComposesAndZeroBudgetDoesNothing :
    Obligations.RunComposesAndZeroBudgetDoesNothing := by
  refine fun m n s => ⟨rfl, runStep^[m] s, run_eq m s, ?_⟩
  rw [run_eq, run_eq, Nat.add_comm, Function.iterate_add_apply]

/-! ### The cycle of HLT -/

/-- The fetch of a HLT and its phase 3, as one update (R141). -/
theorem iterate_four_nextState_of_hlt {s : State} {n : Nibble} (h : AtBoundary s)
    (hi : instrAtPc s = .hlt n) :
    nextState^[4] s =
      { s with
        halted := true
        clockCycle := .execute4
        pc := s.pc + 1
        mar := s.pc
        ir := memRead s s.pc.toNat } := by
  rw [Function.iterate_succ_apply' nextState 3, iterate_three_nextState_of_atBoundary h]
  exact nextState_of_phase .execute3 (.hlt n) h.1 rfl hi

/-- Settles O45: the state after the fourth Step, which is the first to halt, so that Run stops at
it. -/
theorem haltLeavesTheStateOfTheHltWord : Obligations.HaltLeavesTheStateOfTheHltWord := by
  intro s n h hi
  obtain ⟨hfetched, hhalt⟩ := iterate_nextState_halted_of_hlt h hi
  have hbefore : ∀ m < 4, (nextState^[m] s).halted = false := fun m hm =>
    running_iterate_of_le (by omega) hfetched
  exact ⟨nextState^[4] s, nextState^[3] s, steps_eq 3 s, hfetched, steps_eq 4 s,
    iterate_four_nextState_of_hlt h hi, fun budget hb => run_of_first_halt hb hbefore hhalt⟩

/-! ### PowerOn, Reset and LoadProgram -/

/-- A read of a machine just powered on is zero at every address (R170). -/
theorem memRead_reset (addr : Nat) : memRead State.reset addr = 0x00 := rfl

/-- Settles O48: the fields of the record, and its empty memory. -/
theorem powerOnLeavesEveryFieldZero : Obligations.PowerOnLeavesEveryFieldZero :=
  ⟨rfl, rfl, rfl, rfl, rfl, rfl, rfl, rfl, rfl, rfl, rfl, memRead_reset⟩

/-- Settles O47: Reset is the reset state with the memory kept. -/
theorem resetClearsAllButMemory : Obligations.ResetClearsAllButMemory :=
  ⟨fun _ => ⟨rfl, memRead_congr rfl, rfl⟩, rfl⟩

/-- Settles O58: a reset machine runs, and phase 0 is promised nothing; `State.reset` is its own
reset. -/
theorem controllerInvariantHoldsAtReset : Obligations.ControllerInvariantHoldsAtReset := by
  have hreset : ∀ s : State, s.memory.wf = true → ControllerInv (resetOp s) := fun s hs =>
    ⟨hs, fun hhalted => absurd hhalted Bool.false_ne_true, fun _ => trivial⟩
  exact ⟨hreset State.reset reset_memory_wf, hreset⟩

/-- The loop from cell `i` on uses the bytes up to cell 15 and drops the rest (R172). -/
theorem loadFrom_take (i : Nat) (bytes : Image) (s : State) :
    loadFrom i (bytes.take (16 - i)) s = loadFrom i bytes s := by
  induction bytes generalizing i s with
  | nil => rw [List.take_nil]
  | cons v rest ih =>
    by_cases hi : i < 16
    · have hroom : 16 - i = 16 - (i + 1) + 1 := by omega
      rw [hroom, List.take_succ_cons]
      simp only [loadFrom, if_pos hi]
      exact ih (i + 1) (memWrite s i v)
    · have hfull : 16 - i = 0 := by omega
      rw [hfull, List.take_zero]
      simp only [loadFrom, if_neg hi]

/-- Settles O49: the frame and the cells of the loop, and the bytes it drops. -/
theorem loadProgramWritesFirstSixteenBytes : Obligations.LoadProgramWritesFirstSixteenBytes :=
  fun bytes s => ⟨loadFrom_setMemory 0 bytes s s, fun _ hi => memRead_loadProgram bytes s hi,
    (loadFrom_take 0 bytes s).symm⟩

/-! ### Every host operation -/

/-- The state that a host operation leaves (R180). -/
def hostState (op : HostOp) (s : State) : State :=
  match op with
  | .powerOn => powerOn
  | .reset => resetOp s
  | .loadProgram bytes => loadProgram bytes s
  | .step => nextState s
  | .run maxCycles => runStep^[maxCycles] s
  | .snapshot => s

/-- Every host operation answers a next state, and this one (R180). -/
theorem applyOp_eq (op : HostOp) (s : State) : applyOp op s = .next (hostState op s) := by
  cases op with
  | step => exact step_eq s
  | run maxCycles => exact run_eq maxCycles s
  | powerOn | reset | loadProgram bytes | snapshot => rfl

/-- Settles O12: the state that each operation, and each number of Steps, answers. -/
theorem everyHostOperationCompletes : Obligations.EveryHostOperationCompletes :=
  ⟨fun op s => ⟨hostState op s, applyOp_eq op s⟩,
    fun n s => ⟨nextState^[n] s, steps_eq n s⟩⟩

theorem runStep_memory_wf {s : State} (h : s.memory.wf = true) :
    (runStep s).memory.wf = true := by
  cases hh : s.halted with
  | true => rw [runStep_halted hh]; exact h
  | false => rw [runStep_running hh]; exact nextState_memory_wf h

theorem iterate_runStep_memory_wf (n : Nat) {s : State} (h : s.memory.wf = true) :
    (runStep^[n] s).memory.wf = true := by
  induction n with
  | zero => exact h
  | succ n ih => rw [Function.iterate_succ_apply']; exact runStep_memory_wf ih

/-- Settles O56: each operation's state has the memory of the reset state, of the given one, or one
that writes to existing cells have made of it. -/
theorem everyHostOperationKeepsMemoryCanonical :
    Obligations.EveryHostOperationKeepsMemoryCanonical := by
  refine fun op s h => ⟨hostState op s, applyOp_eq op s, ?_⟩
  cases op with
  | powerOn => exact reset_memory_wf
  | reset | snapshot => exact h
  | loadProgram bytes => exact loadFrom_wf 0 bytes h
  | step => exact nextState_memory_wf h
  | run maxCycles => exact iterate_runStep_memory_wf maxCycles h

end Sys2Proof.Machine
